-- ==== Sys2Proof/Word.lean ====
section
/-! DEFINITION. The machine's words: instruction word, register cell, tag, register number (00_scope.md R7, R8). -/

namespace Sys2Proof

/-- A 32-bit instruction word (30_encoding.md R72). -/
abbrev Word := BitVec 32

/-- A 64-bit register or stack cell (00_scope.md R7, `XLEN`). -/
abbrev Cell64 := BitVec 64

/-- An 8-bit tag (00_scope.md R7, `TAGLEN`). -/
abbrev Tag := BitVec 8

/-- A byte of the heap slab (20_memory.md R44). -/
abbrev Byte := BitVec 8

/-- A register number; every 8-bit operand names one of the 256 registers (00_scope.md R8). -/
abbrev Reg := BitVec 8

/-- An instruction index held in the 25 bits of `ip` (10_state.md R32). -/
abbrev Index := BitVec 25

end Sys2Proof
end

