-- ==== Sys2Proof/Syntax.lean ====
section
/-! DEFINITION. The instruction set as syntax: the six formats, one constructor per row of the opcode map
(30_encoding.md R73, R80), and the encoder's unchecked input (R82). -/

namespace Sys2Proof

/-- The six operand formats of 30_encoding.md R73. -/
inductive Format where
  /-- no operands -/
  | n
  /-- one register -/
  | a
  /-- two registers -/
  | ab
  /-- three registers -/
  | abc
  /-- a register and a 16-bit immediate -/
  | ai
  /-- a 24-bit signed immediate -/
  | j
deriving DecidableEq, Repr

/-- A decoded instruction: one constructor per row of 30_encoding.md R80, in the table's order. Registers are the
fields A, B, C, in field order, and immediates are the raw patterns `imm16` and `imm24` (00_scope.md R13). -/
inductive Instr where
  /-- HALT, opcode 0x00, rule R163. -/
  | halt
  /-- MOVE, opcode 0x01, rule R87. -/
  | move (a b : Reg)
  /-- CONST_LOW, opcode 0x02, rule R88. -/
  | constLow (a : Reg) (imm16 : BitVec 16)
  /-- CONST_LOW_NEGATIVE, opcode 0x03, rule R89. -/
  | constLowNegative (a : Reg) (imm16 : BitVec 16)
  /-- CONST_MID_LOW, opcode 0x04, rule R90. -/
  | constMidLow (a : Reg) (imm16 : BitVec 16)
  /-- CONST_MID_HIGH, opcode 0x05, rule R91. -/
  | constMidHigh (a : Reg) (imm16 : BitVec 16)
  /-- CONST_HIGH, opcode 0x06, rule R92. -/
  | constHigh (a : Reg) (imm16 : BitVec 16)
  /-- PUSH, opcode 0x07, rule R153. -/
  | push (a : Reg)
  /-- POP, opcode 0x08, rule R154. -/
  | pop (a : Reg)
  /-- MOVE_FROM_STACK_FRAME, opcode 0x09, rule R159. -/
  | moveFromStackFrame (a b : Reg)
  /-- MOVE_TO_STACK_FRAME, opcode 0x0A, rule R160. -/
  | moveToStackFrame (a b : Reg)
  /-- PUSH_IP, opcode 0x0B, rule R155. -/
  | pushIp (imm24 : BitVec 24)
  /-- NEW_STACK_FRAME, opcode 0x0C, rule R156. -/
  | newStackFrame
  /-- RETURN, opcode 0x0D, rule R157. -/
  | ret
  /-- JUMP, opcode 0x0E, rule R146. -/
  | jump (imm24 : BitVec 24)
  /-- JUMP_IF, opcode 0x0F, rule R147. -/
  | jumpIf (imm24 : BitVec 24)
  /-- JUMP_ABS, opcode 0x10, rule R148. -/
  | jumpAbs (a : Reg)
  /-- JUMP_ABS_IF, opcode 0x11, rule R149. -/
  | jumpAbsIf (a : Reg)
  /-- ALLOC, opcode 0x12, rule R96. -/
  | alloc (a b : Reg)
  /-- ALLOC_ARRAY, opcode 0x13, rule R97. -/
  | allocArray (a b c : Reg)
  /-- STRUCT_LOAD, opcode 0x14, rule R98. -/
  | structLoad (a b c : Reg)
  /-- STRUCT_STORE, opcode 0x15, rule R99. -/
  | structStore (a b c : Reg)
  /-- ARRAY_LOAD, opcode 0x16, rule R100. -/
  | arrayLoad (a b c : Reg)
  /-- ARRAY_STORE, opcode 0x17, rule R101. -/
  | arrayStore (a b c : Reg)
  /-- INT_ADD, opcode 0x18, rule R106. -/
  | intAdd (a b c : Reg)
  /-- INT_SUBTRACT, opcode 0x19, rule R107. -/
  | intSubtract (a b c : Reg)
  /-- INT_MULTIPLY, opcode 0x1A, rule R108. -/
  | intMultiply (a b c : Reg)
  /-- INT_DIVIDE, opcode 0x1B, rule R109. -/
  | intDivide (a b c : Reg)
  /-- UINT_ADD, opcode 0x1C, rule R110. -/
  | uintAdd (a b c : Reg)
  /-- UINT_SUBTRACT, opcode 0x1D, rule R111. -/
  | uintSubtract (a b c : Reg)
  /-- UINT_MULTIPLY, opcode 0x1E, rule R112. -/
  | uintMultiply (a b c : Reg)
  /-- UINT_DIVIDE, opcode 0x1F, rule R113. -/
  | uintDivide (a b c : Reg)
  /-- FLOAT_ADD, opcode 0x20, rule R114. -/
  | floatAdd (a b c : Reg)
  /-- FLOAT_SUBTRACT, opcode 0x21, rule R115. -/
  | floatSubtract (a b c : Reg)
  /-- FLOAT_MULTIPLY, opcode 0x22, rule R116. -/
  | floatMultiply (a b c : Reg)
  /-- FLOAT_DIVIDE, opcode 0x23, rule R117. -/
  | floatDivide (a b c : Reg)
  /-- DOUBLE_ADD, opcode 0x24, rule R118. -/
  | doubleAdd (a b c : Reg)
  /-- DOUBLE_SUBTRACT, opcode 0x25, rule R119. -/
  | doubleSubtract (a b c : Reg)
  /-- DOUBLE_MULTIPLY, opcode 0x26, rule R120. -/
  | doubleMultiply (a b c : Reg)
  /-- DOUBLE_DIVIDE, opcode 0x27, rule R121. -/
  | doubleDivide (a b c : Reg)
  /-- AND, opcode 0x28, rule R122. -/
  | bitAnd (a b c : Reg)
  /-- OR, opcode 0x29, rule R123. -/
  | bitOr (a b c : Reg)
  /-- EQUAL, opcode 0x2A, rule R127. -/
  | equal (a b c : Reg)
  /-- NOT_EQUAL, opcode 0x2B, rule R128. -/
  | notEqual (a b c : Reg)
  /-- INT_LESS, opcode 0x2C, rule R129. -/
  | intLess (a b c : Reg)
  /-- INT_LESS_EQUAL, opcode 0x2D, rule R130. -/
  | intLessEqual (a b c : Reg)
  /-- UINT_LESS, opcode 0x2E, rule R131. -/
  | uintLess (a b c : Reg)
  /-- UINT_LESS_EQUAL, opcode 0x2F, rule R132. -/
  | uintLessEqual (a b c : Reg)
  /-- FLOAT_EQUAL, opcode 0x30, rule R133. -/
  | floatEqual (a b c : Reg)
  /-- FLOAT_NOT_EQUAL, opcode 0x31, rule R134. -/
  | floatNotEqual (a b c : Reg)
  /-- FLOAT_LESS, opcode 0x32, rule R135. -/
  | floatLess (a b c : Reg)
  /-- FLOAT_LESS_EQUAL, opcode 0x33, rule R136. -/
  | floatLessEqual (a b c : Reg)
  /-- DOUBLE_EQUAL, opcode 0x34, rule R137. -/
  | doubleEqual (a b c : Reg)
  /-- DOUBLE_NOT_EQUAL, opcode 0x35, rule R138. -/
  | doubleNotEqual (a b c : Reg)
  /-- DOUBLE_LESS, opcode 0x36, rule R139. -/
  | doubleLess (a b c : Reg)
  /-- DOUBLE_LESS_EQUAL, opcode 0x37, rule R140. -/
  | doubleLessEqual (a b c : Reg)
  /-- TEST, opcode 0x38, rule R141. -/
  | test (a b : Reg)
  /-- OUT, opcode 0x39, rule R162. -/
  | out (a : Reg)
deriving DecidableEq, Repr

/-- What an encoder is handed before it checks anything (30_encoding.md R82): an opcode number and the operand
values in field order, unbounded. -/
structure AsmInstr where
  opcode   : Nat
  operands : List Int
deriving DecidableEq, Repr

/-- The opcode of an instruction (30_encoding.md R80). -/
def Instr.opcode : Instr → BitVec 8
  | .halt => 0x00#8
  | .move _ _ => 0x01#8
  | .constLow _ _ => 0x02#8
  | .constLowNegative _ _ => 0x03#8
  | .constMidLow _ _ => 0x04#8
  | .constMidHigh _ _ => 0x05#8
  | .constHigh _ _ => 0x06#8
  | .push _ => 0x07#8
  | .pop _ => 0x08#8
  | .moveFromStackFrame _ _ => 0x09#8
  | .moveToStackFrame _ _ => 0x0A#8
  | .pushIp _ => 0x0B#8
  | .newStackFrame => 0x0C#8
  | .ret => 0x0D#8
  | .jump _ => 0x0E#8
  | .jumpIf _ => 0x0F#8
  | .jumpAbs _ => 0x10#8
  | .jumpAbsIf _ => 0x11#8
  | .alloc _ _ => 0x12#8
  | .allocArray _ _ _ => 0x13#8
  | .structLoad _ _ _ => 0x14#8
  | .structStore _ _ _ => 0x15#8
  | .arrayLoad _ _ _ => 0x16#8
  | .arrayStore _ _ _ => 0x17#8
  | .intAdd _ _ _ => 0x18#8
  | .intSubtract _ _ _ => 0x19#8
  | .intMultiply _ _ _ => 0x1A#8
  | .intDivide _ _ _ => 0x1B#8
  | .uintAdd _ _ _ => 0x1C#8
  | .uintSubtract _ _ _ => 0x1D#8
  | .uintMultiply _ _ _ => 0x1E#8
  | .uintDivide _ _ _ => 0x1F#8
  | .floatAdd _ _ _ => 0x20#8
  | .floatSubtract _ _ _ => 0x21#8
  | .floatMultiply _ _ _ => 0x22#8
  | .floatDivide _ _ _ => 0x23#8
  | .doubleAdd _ _ _ => 0x24#8
  | .doubleSubtract _ _ _ => 0x25#8
  | .doubleMultiply _ _ _ => 0x26#8
  | .doubleDivide _ _ _ => 0x27#8
  | .bitAnd _ _ _ => 0x28#8
  | .bitOr _ _ _ => 0x29#8
  | .equal _ _ _ => 0x2A#8
  | .notEqual _ _ _ => 0x2B#8
  | .intLess _ _ _ => 0x2C#8
  | .intLessEqual _ _ _ => 0x2D#8
  | .uintLess _ _ _ => 0x2E#8
  | .uintLessEqual _ _ _ => 0x2F#8
  | .floatEqual _ _ _ => 0x30#8
  | .floatNotEqual _ _ _ => 0x31#8
  | .floatLess _ _ _ => 0x32#8
  | .floatLessEqual _ _ _ => 0x33#8
  | .doubleEqual _ _ _ => 0x34#8
  | .doubleNotEqual _ _ _ => 0x35#8
  | .doubleLess _ _ _ => 0x36#8
  | .doubleLessEqual _ _ _ => 0x37#8
  | .test _ _ => 0x38#8
  | .out _ => 0x39#8

/-- The format of an instruction (30_encoding.md R80). -/
def Instr.format : Instr → Format
  | .halt => .n
  | .move _ _ => .ab
  | .constLow _ _ => .ai
  | .constLowNegative _ _ => .ai
  | .constMidLow _ _ => .ai
  | .constMidHigh _ _ => .ai
  | .constHigh _ _ => .ai
  | .push _ => .a
  | .pop _ => .a
  | .moveFromStackFrame _ _ => .ab
  | .moveToStackFrame _ _ => .ab
  | .pushIp _ => .j
  | .newStackFrame => .n
  | .ret => .n
  | .jump _ => .j
  | .jumpIf _ => .j
  | .jumpAbs _ => .a
  | .jumpAbsIf _ => .a
  | .alloc _ _ => .ab
  | .allocArray _ _ _ => .abc
  | .structLoad _ _ _ => .abc
  | .structStore _ _ _ => .abc
  | .arrayLoad _ _ _ => .abc
  | .arrayStore _ _ _ => .abc
  | .intAdd _ _ _ => .abc
  | .intSubtract _ _ _ => .abc
  | .intMultiply _ _ _ => .abc
  | .intDivide _ _ _ => .abc
  | .uintAdd _ _ _ => .abc
  | .uintSubtract _ _ _ => .abc
  | .uintMultiply _ _ _ => .abc
  | .uintDivide _ _ _ => .abc
  | .floatAdd _ _ _ => .abc
  | .floatSubtract _ _ _ => .abc
  | .floatMultiply _ _ _ => .abc
  | .floatDivide _ _ _ => .abc
  | .doubleAdd _ _ _ => .abc
  | .doubleSubtract _ _ _ => .abc
  | .doubleMultiply _ _ _ => .abc
  | .doubleDivide _ _ _ => .abc
  | .bitAnd _ _ _ => .abc
  | .bitOr _ _ _ => .abc
  | .equal _ _ _ => .abc
  | .notEqual _ _ _ => .abc
  | .intLess _ _ _ => .abc
  | .intLessEqual _ _ _ => .abc
  | .uintLess _ _ _ => .abc
  | .uintLessEqual _ _ _ => .abc
  | .floatEqual _ _ _ => .abc
  | .floatNotEqual _ _ _ => .abc
  | .floatLess _ _ _ => .abc
  | .floatLessEqual _ _ _ => .abc
  | .doubleEqual _ _ _ => .abc
  | .doubleNotEqual _ _ _ => .abc
  | .doubleLess _ _ _ => .abc
  | .doubleLessEqual _ _ _ => .abc
  | .test _ _ => .ab
  | .out _ => .a

end Sys2Proof
end

