-- ==== Sys2Proof/WellFormed.lean ====
section
/-! DEFINITION. The encoder's contract (30_encoding.md R82): what must hold of an instruction before it is packed
into a word. A decoded `Instr` needs no further check, since each field's type is the width of its field. -/

namespace Sys2Proof

/-- The format of a defined opcode, none for an opcode outside 0x00..0x39 (30_encoding.md R80, R81). -/
def formatOf (opcode : Nat) : Option Format :=
  match opcode with
  | 0x00 => some .n
  | 0x01 => some .ab
  | 0x02 => some .ai
  | 0x03 => some .ai
  | 0x04 => some .ai
  | 0x05 => some .ai
  | 0x06 => some .ai
  | 0x07 => some .a
  | 0x08 => some .a
  | 0x09 => some .ab
  | 0x0A => some .ab
  | 0x0B => some .j
  | 0x0C => some .n
  | 0x0D => some .n
  | 0x0E => some .j
  | 0x0F => some .j
  | 0x10 => some .a
  | 0x11 => some .a
  | 0x12 => some .ab
  | 0x13 => some .abc
  | 0x14 => some .abc
  | 0x15 => some .abc
  | 0x16 => some .abc
  | 0x17 => some .abc
  | 0x18 => some .abc
  | 0x19 => some .abc
  | 0x1A => some .abc
  | 0x1B => some .abc
  | 0x1C => some .abc
  | 0x1D => some .abc
  | 0x1E => some .abc
  | 0x1F => some .abc
  | 0x20 => some .abc
  | 0x21 => some .abc
  | 0x22 => some .abc
  | 0x23 => some .abc
  | 0x24 => some .abc
  | 0x25 => some .abc
  | 0x26 => some .abc
  | 0x27 => some .abc
  | 0x28 => some .abc
  | 0x29 => some .abc
  | 0x2A => some .abc
  | 0x2B => some .abc
  | 0x2C => some .abc
  | 0x2D => some .abc
  | 0x2E => some .abc
  | 0x2F => some .abc
  | 0x30 => some .abc
  | 0x31 => some .abc
  | 0x32 => some .abc
  | 0x33 => some .abc
  | 0x34 => some .abc
  | 0x35 => some .abc
  | 0x36 => some .abc
  | 0x37 => some .abc
  | 0x38 => some .ab
  | 0x39 => some .a
  | _ => none

/-- The operand is a register number 0..255. -/
abbrev regOperandOk (v : Int) : Prop := 0 ≤ v ∧ v ≤ 255

/-- The operand is an `AI` immediate: −32768..65535, of which the low 16 bits are encoded. -/
abbrev imm16OperandOk (v : Int) : Prop := -32768 ≤ v ∧ v ≤ 65535

/-- The operand is a `J` offset: −2^23..2^23 − 1. -/
abbrev off24OperandOk (v : Int) : Prop := -(2 ^ 23) ≤ v ∧ v ≤ 2 ^ 23 - 1

/-- The operands fit the fields of their format, in number and in range. -/
def operandsOk : Format → List Int → Bool
  | .n, [] => true
  | .a, [a] => decide (regOperandOk a)
  | .ab, [a, b] => decide (regOperandOk a) && decide (regOperandOk b)
  | .abc, [a, b, c] => decide (regOperandOk a) && decide (regOperandOk b) && decide (regOperandOk c)
  | .ai, [a, v] => decide (regOperandOk a) && decide (imm16OperandOk v)
  | .j, [v] => decide (off24OperandOk v)
  | _, _ => false

/-- The encoder's contract: a defined opcode whose operands fit (30_encoding.md R82). -/
def AsmInstr.wellFormed (i : AsmInstr) : Bool :=
  match formatOf i.opcode with
  | none => false
  | some f => operandsOk f i.operands

end Sys2Proof
end

