-- ==== Sys2Proof/Decode.lean ====
section
/-! DEFINITION. The decoder, total on every 32-bit word and rejecting by the opcode's number (30_encoding.md R79),
and after it the encoder, from the same format and opcode tables (R73, R74, R80, R82). -/

namespace Sys2Proof

/-! ## Fields of a word (30_encoding.md R74) -/

/-- Bits 31:24. -/
def fieldOp (w : Word) : BitVec 8 := w.extractLsb' 24 8

/-- Bits 23:16. -/
def fieldA (w : Word) : Reg := w.extractLsb' 16 8

/-- Bits 15:8. -/
def fieldB (w : Word) : Reg := w.extractLsb' 8 8

/-- Bits 7:0. -/
def fieldC (w : Word) : Reg := w.extractLsb' 0 8

/-- Bits 15:0. -/
def fieldImm16 (w : Word) : BitVec 16 := w.extractLsb' 0 16

/-- Bits 23:0. -/
def fieldImm24 (w : Word) : BitVec 24 := w.extractLsb' 0 24

/-- The two answers of the decoder (30_encoding.md R79): an instruction, or the number of an illegal opcode. -/
inductive Decoded where
  /-- The instruction whose opcode and fields the word holds. -/
  | instr (i : Instr)
  /-- The opcode is not in the table of R80: 0x3A to 0xFF (R81). -/
  | illegal (opcode : BitVec 8)
deriving DecidableEq, Repr

/-- `Decode(w)`: the opcode alone selects the format, padding is not looked at (30_encoding.md R75, R79, R80). -/
def decode (w : Word) : Decoded :=
  match (fieldOp w).toNat with
  | 0x00 => .instr .halt
  | 0x01 => .instr (.move (fieldA w) (fieldB w))
  | 0x02 => .instr (.constLow (fieldA w) (fieldImm16 w))
  | 0x03 => .instr (.constLowNegative (fieldA w) (fieldImm16 w))
  | 0x04 => .instr (.constMidLow (fieldA w) (fieldImm16 w))
  | 0x05 => .instr (.constMidHigh (fieldA w) (fieldImm16 w))
  | 0x06 => .instr (.constHigh (fieldA w) (fieldImm16 w))
  | 0x07 => .instr (.push (fieldA w))
  | 0x08 => .instr (.pop (fieldA w))
  | 0x09 => .instr (.moveFromStackFrame (fieldA w) (fieldB w))
  | 0x0A => .instr (.moveToStackFrame (fieldA w) (fieldB w))
  | 0x0B => .instr (.pushIp (fieldImm24 w))
  | 0x0C => .instr .newStackFrame
  | 0x0D => .instr .ret
  | 0x0E => .instr (.jump (fieldImm24 w))
  | 0x0F => .instr (.jumpIf (fieldImm24 w))
  | 0x10 => .instr (.jumpAbs (fieldA w))
  | 0x11 => .instr (.jumpAbsIf (fieldA w))
  | 0x12 => .instr (.alloc (fieldA w) (fieldB w))
  | 0x13 => .instr (.allocArray (fieldA w) (fieldB w) (fieldC w))
  | 0x14 => .instr (.structLoad (fieldA w) (fieldB w) (fieldC w))
  | 0x15 => .instr (.structStore (fieldA w) (fieldB w) (fieldC w))
  | 0x16 => .instr (.arrayLoad (fieldA w) (fieldB w) (fieldC w))
  | 0x17 => .instr (.arrayStore (fieldA w) (fieldB w) (fieldC w))
  | 0x18 => .instr (.intAdd (fieldA w) (fieldB w) (fieldC w))
  | 0x19 => .instr (.intSubtract (fieldA w) (fieldB w) (fieldC w))
  | 0x1A => .instr (.intMultiply (fieldA w) (fieldB w) (fieldC w))
  | 0x1B => .instr (.intDivide (fieldA w) (fieldB w) (fieldC w))
  | 0x1C => .instr (.uintAdd (fieldA w) (fieldB w) (fieldC w))
  | 0x1D => .instr (.uintSubtract (fieldA w) (fieldB w) (fieldC w))
  | 0x1E => .instr (.uintMultiply (fieldA w) (fieldB w) (fieldC w))
  | 0x1F => .instr (.uintDivide (fieldA w) (fieldB w) (fieldC w))
  | 0x20 => .instr (.floatAdd (fieldA w) (fieldB w) (fieldC w))
  | 0x21 => .instr (.floatSubtract (fieldA w) (fieldB w) (fieldC w))
  | 0x22 => .instr (.floatMultiply (fieldA w) (fieldB w) (fieldC w))
  | 0x23 => .instr (.floatDivide (fieldA w) (fieldB w) (fieldC w))
  | 0x24 => .instr (.doubleAdd (fieldA w) (fieldB w) (fieldC w))
  | 0x25 => .instr (.doubleSubtract (fieldA w) (fieldB w) (fieldC w))
  | 0x26 => .instr (.doubleMultiply (fieldA w) (fieldB w) (fieldC w))
  | 0x27 => .instr (.doubleDivide (fieldA w) (fieldB w) (fieldC w))
  | 0x28 => .instr (.bitAnd (fieldA w) (fieldB w) (fieldC w))
  | 0x29 => .instr (.bitOr (fieldA w) (fieldB w) (fieldC w))
  | 0x2A => .instr (.equal (fieldA w) (fieldB w) (fieldC w))
  | 0x2B => .instr (.notEqual (fieldA w) (fieldB w) (fieldC w))
  | 0x2C => .instr (.intLess (fieldA w) (fieldB w) (fieldC w))
  | 0x2D => .instr (.intLessEqual (fieldA w) (fieldB w) (fieldC w))
  | 0x2E => .instr (.uintLess (fieldA w) (fieldB w) (fieldC w))
  | 0x2F => .instr (.uintLessEqual (fieldA w) (fieldB w) (fieldC w))
  | 0x30 => .instr (.floatEqual (fieldA w) (fieldB w) (fieldC w))
  | 0x31 => .instr (.floatNotEqual (fieldA w) (fieldB w) (fieldC w))
  | 0x32 => .instr (.floatLess (fieldA w) (fieldB w) (fieldC w))
  | 0x33 => .instr (.floatLessEqual (fieldA w) (fieldB w) (fieldC w))
  | 0x34 => .instr (.doubleEqual (fieldA w) (fieldB w) (fieldC w))
  | 0x35 => .instr (.doubleNotEqual (fieldA w) (fieldB w) (fieldC w))
  | 0x36 => .instr (.doubleLess (fieldA w) (fieldB w) (fieldC w))
  | 0x37 => .instr (.doubleLessEqual (fieldA w) (fieldB w) (fieldC w))
  | 0x38 => .instr (.test (fieldA w) (fieldB w))
  | 0x39 => .instr (.out (fieldA w))
  | _ => .illegal (fieldOp w)

/-! ## Packing a word (30_encoding.md R73), padding written as 0 (R75) -/

/-- Format `N`. -/
def packN (op : BitVec 8) : Word := op ++ 0#24

/-- Format `A`. -/
def packA (op : BitVec 8) (a : Reg) : Word := op ++ a ++ 0#16

/-- Format `AB`. -/
def packAB (op : BitVec 8) (a b : Reg) : Word := op ++ a ++ b ++ 0#8

/-- Format `ABC`. -/
def packABC (op : BitVec 8) (a b c : Reg) : Word := op ++ a ++ b ++ c

/-- Format `AI`. -/
def packAI (op : BitVec 8) (a : Reg) (imm16 : BitVec 16) : Word := op ++ a ++ imm16

/-- Format `J`. -/
def packJ (op : BitVec 8) (imm24 : BitVec 24) : Word := op ++ imm24

/-- The word of an instruction, its padding 0 (30_encoding.md R73, R75, R80). -/
def encode : Instr → Word
  | .halt => packN 0x00#8
  | .move a b => packAB 0x01#8 a b
  | .constLow a imm16 => packAI 0x02#8 a imm16
  | .constLowNegative a imm16 => packAI 0x03#8 a imm16
  | .constMidLow a imm16 => packAI 0x04#8 a imm16
  | .constMidHigh a imm16 => packAI 0x05#8 a imm16
  | .constHigh a imm16 => packAI 0x06#8 a imm16
  | .push a => packA 0x07#8 a
  | .pop a => packA 0x08#8 a
  | .moveFromStackFrame a b => packAB 0x09#8 a b
  | .moveToStackFrame a b => packAB 0x0A#8 a b
  | .pushIp imm24 => packJ 0x0B#8 imm24
  | .newStackFrame => packN 0x0C#8
  | .ret => packN 0x0D#8
  | .jump imm24 => packJ 0x0E#8 imm24
  | .jumpIf imm24 => packJ 0x0F#8 imm24
  | .jumpAbs a => packA 0x10#8 a
  | .jumpAbsIf a => packA 0x11#8 a
  | .alloc a b => packAB 0x12#8 a b
  | .allocArray a b c => packABC 0x13#8 a b c
  | .structLoad a b c => packABC 0x14#8 a b c
  | .structStore a b c => packABC 0x15#8 a b c
  | .arrayLoad a b c => packABC 0x16#8 a b c
  | .arrayStore a b c => packABC 0x17#8 a b c
  | .intAdd a b c => packABC 0x18#8 a b c
  | .intSubtract a b c => packABC 0x19#8 a b c
  | .intMultiply a b c => packABC 0x1A#8 a b c
  | .intDivide a b c => packABC 0x1B#8 a b c
  | .uintAdd a b c => packABC 0x1C#8 a b c
  | .uintSubtract a b c => packABC 0x1D#8 a b c
  | .uintMultiply a b c => packABC 0x1E#8 a b c
  | .uintDivide a b c => packABC 0x1F#8 a b c
  | .floatAdd a b c => packABC 0x20#8 a b c
  | .floatSubtract a b c => packABC 0x21#8 a b c
  | .floatMultiply a b c => packABC 0x22#8 a b c
  | .floatDivide a b c => packABC 0x23#8 a b c
  | .doubleAdd a b c => packABC 0x24#8 a b c
  | .doubleSubtract a b c => packABC 0x25#8 a b c
  | .doubleMultiply a b c => packABC 0x26#8 a b c
  | .doubleDivide a b c => packABC 0x27#8 a b c
  | .bitAnd a b c => packABC 0x28#8 a b c
  | .bitOr a b c => packABC 0x29#8 a b c
  | .equal a b c => packABC 0x2A#8 a b c
  | .notEqual a b c => packABC 0x2B#8 a b c
  | .intLess a b c => packABC 0x2C#8 a b c
  | .intLessEqual a b c => packABC 0x2D#8 a b c
  | .uintLess a b c => packABC 0x2E#8 a b c
  | .uintLessEqual a b c => packABC 0x2F#8 a b c
  | .floatEqual a b c => packABC 0x30#8 a b c
  | .floatNotEqual a b c => packABC 0x31#8 a b c
  | .floatLess a b c => packABC 0x32#8 a b c
  | .floatLessEqual a b c => packABC 0x33#8 a b c
  | .doubleEqual a b c => packABC 0x34#8 a b c
  | .doubleNotEqual a b c => packABC 0x35#8 a b c
  | .doubleLess a b c => packABC 0x36#8 a b c
  | .doubleLessEqual a b c => packABC 0x37#8 a b c
  | .test a b => packAB 0x38#8 a b
  | .out a => packA 0x39#8 a

/-- The mask of the bits that are not padding in a word of the format (30_encoding.md R75). -/
def Format.mask : Format → Word
  | .n => 0xFF000000#32
  | .a => 0xFFFF0000#32
  | .ab => 0xFFFFFF00#32
  | .abc | .ai | .j => 0xFFFFFFFF#32

/-- The word an encoder appends for checked operands (30_encoding.md R82): operands packed by the format. -/
def packOperands (op : BitVec 8) : Format → List Int → Option Word
  | .n, [] => some (packN op)
  | .a, [a] => some (packA op (BitVec.ofInt 8 a))
  | .ab, [a, b] => some (packAB op (BitVec.ofInt 8 a) (BitVec.ofInt 8 b))
  | .abc, [a, b, c] => some (packABC op (BitVec.ofInt 8 a) (BitVec.ofInt 8 b) (BitVec.ofInt 8 c))
  | .ai, [a, v] => some (packAI op (BitVec.ofInt 8 a) (BitVec.ofInt 16 v))
  | .j, [v] => some (packJ op (BitVec.ofInt 24 v))
  | _, _ => none

/-- The encoder: the word of a well-formed input, none for a violation, which is never truncated
(30_encoding.md R82). -/
def encodeAsm (i : AsmInstr) : Option Word :=
  if i.wellFormed then
    match formatOf i.opcode with
    | some f => packOperands (BitVec.ofNat 8 i.opcode) f i.operands
    | none => none
  else none

/-- The offset an assembler encodes for a label of a `J` operand (30_encoding.md R84). -/
def labelOffset (labelIndex thisIndex : Nat) : Int := (labelIndex : Int) - ((thisIndex : Int) + 1)

/-- The pseudo-instruction `LI64 rA, v` (30_encoding.md R85). -/
def pseudoLI64 (a : Reg) (v : Cell64) : List Instr :=
  [.constLow a (v.extractLsb' 0 16), .constMidLow a (v.extractLsb' 16 16),
   .constMidHigh a (v.extractLsb' 32 16), .constHigh a (v.extractLsb' 48 16)]

/-- The pseudo-instruction `CALL label`, with the offset of its JUMP (30_encoding.md R85). -/
def pseudoCall (imm24 : BitVec 24) : List Instr := [.pushIp 2#24, .newStackFrame, .jump imm24]

/-- The instruction the decoder reads from a word of `nbits` bits, numbered as the opcode table numbers them; bits
above `nbits` are 0. Code memory is an array of whole words and has no byte order (20_memory.md R48). -/
def decodeTableWord (nbits w : Nat) : Option Instr :=
  match decode (BitVec.ofNat 32 (w % 2 ^ nbits)) with
  | .instr i => some i
  | .illegal _ => none

end Sys2Proof
end

