-- ==== Sys2Proof/Config.lean ====
section
/-! DEFINITION. What an implementation fixes (00_scope.md R7): the parameters with defaults, as plain data, and the
open parameters `SLAB_INIT`, `NAN_RESULT` and `FLOAT_TEXT`, as opaque constants that no proof can look into. -/

namespace Sys2Proof

/-- The implementation parameters of 00_scope.md R7 that have a default and may be replaced. -/
structure Config where
  /-- `FRAME_REG`: the number of the frame register. -/
  frameReg  : Reg
  /-- `RETURN_REG`: the number of the return-value register. -/
  returnReg : Reg
  /-- `CODE_CAP`: the maximum chunk length, in words. -/
  codeCap   : Nat
  /-- `STACK_CAP`: the maximum stack depth, in slots. -/
  stackCap  : Nat
  /-- `SLAB_EXP`: the slab has 2^`SLAB_EXP` bytes. -/
  slabExp   : Nat
  /-- `SLAB_BASE`: the address of the slab's byte 0. -/
  slabBase  : Nat
  /-- `MIN_EXP`: the allocator's smallest exponent. -/
  minExp    : Nat
deriving DecidableEq, Repr

/-- The defaults of 00_scope.md R7 (DESIGN CHOICE of the reset state, log 1). -/
def Config.default : Config where
  frameReg  := 254
  returnReg := 255
  codeCap   := 2 ^ 24
  stackCap  := 2 ^ 16
  slabExp   := 20
  slabBase  := 0x100000
  minExp    := 4

/-- The legal values of 00_scope.md R7. -/
structure Config.Legal (cfg : Config) : Prop where
  frame_ne_return : cfg.frameReg ≠ cfg.returnReg
  codeCap_pos     : 1 ≤ cfg.codeCap
  codeCap_le      : cfg.codeCap ≤ 2 ^ 24
  stackCap_pos    : 1 ≤ cfg.stackCap
  stackCap_le     : cfg.stackCap ≤ 2 ^ 32
  minExp_le       : cfg.minExp ≤ cfg.slabExp
  slabExp_le      : cfg.slabExp ≤ 40
  base_aligned    : 2 ^ cfg.slabExp ∣ cfg.slabBase
  slab_fits       : cfg.slabBase + 2 ^ cfg.slabExp ≤ 2 ^ 64

/-- `NODE_CAP`, derived: the node count of a complete tree (00_scope.md R7, 20_memory.md R59). -/
def Config.nodeCap (cfg : Config) : Nat := 2 ^ (cfg.slabExp - cfg.minExp + 1) - 1

/-- `SLAB_INIT`: the byte that the heap address `a` holds before anything is written there (00_scope.md R7,
20_memory.md R51). A FREE VALUE, log 2. -/
opaque Config.slabInit (a : Nat) : Byte

/-- The bits from which `NAN_RESULT(op, a, b)` of a binary32 operation is made: they depend on the opcode and the
operand bits alone (42_arithmetic.md R104). A FREE VALUE, log 3. -/
opaque Config.nanBits32 (op : BitVec 8) (a b : BitVec 32) : BitVec 32

/-- The bits from which `NAN_RESULT(op, a, b)` of a binary64 operation is made (42_arithmetic.md R104). A FREE
VALUE, log 3. -/
opaque Config.nanBits64 (op : BitVec 8) (a b : BitVec 64) : BitVec 64

/-- `FLOAT_TEXT` on a binary32 number: the host's rendering of a `FLOAT` record (10_state.md R18). A FREE VALUE,
log 13. -/
opaque Config.floatText32 (b : BitVec 32) : String

/-- `FLOAT_TEXT` on a binary64 number: the host's rendering of a `DOUBLE` record (10_state.md R18). A FREE VALUE,
log 13. -/
opaque Config.floatText64 (b : BitVec 64) : String

end Sys2Proof
end

