-- ==== Sys2Proof/Machine/State.lean ====
section
/-! DEFINITION. The machine's state as plain data: every item of the tuple of 10_state.md R41, the diagnostic stream
(R19) and the implementation parameters; the reasons a step can stop; the state after reset (10_state.md R42). -/

namespace Sys2Proof.Machine

/-! ## Names the spec gives to values -/

/-- The six tag kinds of 10_state.md R25. -/
inductive TagKind where
  | raw
  | ptr
  | signed
  | float
  | double
  | arrayPtr
deriving DecidableEq, Repr

/-- The primitive field kinds of 20_memory.md R55, in the order of their codes 0 to 12. -/
inductive PrimKind where
  | bool
  | i8
  | i16
  | i32
  | i64
  | u8
  | u16
  | u32
  | u64
  | f32
  | f64
  | structRef
  | arrayRef
deriving DecidableEq, Repr

/-- The four run states of 10_state.md R33. -/
inductive Status where
  | idle
  | running
  | halted
  | runtimeError
deriving DecidableEq, Repr

/-- The causes of a runtime error, codes 1 to 19 in order (60_exceptions.md R164). -/
inductive Cause where
  | illegalOpcode
  | ipOutOfRange
  | jumpOutOfRange
  | notAPointer
  | notAnArray
  | arrayIndexOutOfBounds
  | addressOutOfRange
  | unknownType
  | unknownField
  | invalidArraySpan
  | outOfMemory
  | stackOverflow
  | stackUnderflow
  | stackFrameOutOfBounds
  | badFrame
  | divideByZero
  | allocWrongLevel
  | allocAddressOutOfNode
  | allocInvalidFree
deriving DecidableEq, Repr

/-- The record kinds of the output stream (10_state.md R18). -/
inductive OutKind where
  | signed
  | unsigned
  | float
  | double
deriving DecidableEq, Repr

/-- What the result port presents after a run (10_state.md R17(f)). -/
inductive RunResult where
  | ok
  | runtimeError
deriving DecidableEq, Repr

/-! ## Records the state holds -/

/-- One record `Out(kind, bits)` of the output stream (10_state.md R18). -/
structure OutRecord where
  kind : OutKind
  bits : Cell64
deriving DecidableEq, Repr

/-- One record `Err(cause, fault_ip, line)` of the diagnostic stream (10_state.md R19). -/
structure ErrRecord where
  cause   : BitVec 8
  faultIp : Index
  line    : Cell64
deriving DecidableEq, Repr

/-- One run `(line_j, count_j)` of the line table (10_state.md R21). The line is a signed 64-bit number, as
`FAULT_LINE` is. DEDUCED, log 10. -/
structure LineRun where
  line  : Cell64
  count : Nat
deriving DecidableEq, Repr

/-- One field of a type: name, primitive kind, byte offset below 2^32 (20_memory.md R54,
log 12). -/
structure FieldMeta where
  name   : String
  kind   : PrimKind
  offset : BitVec 32
deriving DecidableEq, Repr

/-- One entry of the metadata table: the fields of a type in declaration order (20_memory.md R54). -/
structure TypeMeta where
  fields : List FieldMeta
deriving DecidableEq, Repr

/-- One slot of the value stack: a value and its tag (10_state.md R34). -/
structure Slot where
  val : Cell64
  tag : Tag
deriving DecidableEq, Repr

/-- The bytes of the heap slab that have been written, as address and byte, addresses strictly rising. An address
that is not listed has never been written and holds its `SLAB_INIT` byte (20_memory.md R51, log 2). -/
structure Memory where
  cells : List Host.Cell
deriving DecidableEq, Repr

/-- An allocation node (20_memory.md R57). A leaf has `isSplit = 0`, a reference count that is 0 (free) or 1
(allocated) and no children; a split node has `isSplit = 1`, reference count 0 and both children. -/
inductive Node where
  | leaf (e addr : Nat) (allocated : Bool)
  | split (e addr : Nat) (left right : Node)
deriving DecidableEq, Repr

/-! ## The state -/

/-- The machine's state (10_state.md R41). -/
structure State where
  /-- The implementation parameters (00_scope.md R7). The MODEL's own field: nothing changes it (log 1). -/
  cfg          : Config
  /-- Code memory; its length is `CODE_SIZE` (10_state.md R20). -/
  code         : List Word
  /-- The line table (10_state.md R21). -/
  lineTable    : List LineRun
  /-- The type-metadata table; its length is `NUM_TYPES` (20_memory.md R54). -/
  metadata     : List TypeMeta
  /-- The instruction pointer (10_state.md R32). -/
  ip           : Index
  /-- `x[0..255]` (10_state.md R22). -/
  regs         : Vector Cell64 256
  /-- `tag[0..255]` (10_state.md R22, R24). -/
  tags         : Vector Tag 256
  /-- The comparison flag (10_state.md R31). -/
  flag         : Bool
  /-- The value stack, bottom first; its length is `S.size` (10_state.md R34, log 9). -/
  stack        : List Slot
  /-- The pointer-slot index `P`, strictly rising (10_state.md R35). -/
  pointerSlots : List Nat
  /-- The heap slab (10_state.md R40, 20_memory.md R44). -/
  slab         : Memory
  /-- The allocator tree (20_memory.md R57). -/
  tree         : Node
  /-- The number of records in the free-node pool (20_memory.md R59, log 7). -/
  pool         : Nat
  /-- `STATUS` (10_state.md R33). -/
  status       : Status
  /-- `CAUSE` (10_state.md R33). -/
  cause        : BitVec 8
  /-- `FAULT_IP` (10_state.md R33). -/
  faultIp      : Index
  /-- `FAULT_LINE`, signed (10_state.md R33). -/
  faultLine    : Cell64
  /-- The output stream, oldest record first (10_state.md R18). -/
  out          : List OutRecord
  /-- The diagnostic stream, oldest record first (10_state.md R19). -/
  diag         : List ErrRecord
deriving DecidableEq, Repr

/-- Why the model stops a step. A runtime error of the block is no such stop: it is a next state
(60_exceptions.md R167). -/
inductive Fault where
  /-- Raised by ALLOC and ALLOC_ARRAY when a split finds fewer than two records in the free-node pool, which
  20_memory.md R59 says never happens and the allocator invariant R58 (d), (e) rules out (log 7). Safe: the model
  stops where the spec gives no effect. -/
  | nodePoolEmpty
deriving DecidableEq, Repr

/-- Why the model gives no next state for a request. -/
inductive Refusal where
  /-- Raised by the arm of an instruction that has no meaning yet. Safe: the model stops. No arm raises it now. -/
  | notModelled (mnemonic : String)
  /-- Raised by a host load or start while `STATUS = RUNNING`; the request changes nothing
  (70_reset_and_hazards.md R182). Safe: the spec says so. -/
  | portBusy
  /-- Raised by a host load that exceeds what its port can hold: more than `CODE_CAP` words (10_state.md R17(a)), or
  more than 2^32 types (00_scope.md R7). Safe: the model stops (log 11). -/
  | loadTooLarge
deriving DecidableEq, Repr

/-- `NO_LINE`, −1 in 64 bits (10_state.md R21). -/
def noLine : Cell64 := BitVec.allOnes 64

/-- The state right after reset of a block with the given parameters (10_state.md R42, 70_reset_and_hazards.md
R176). Code, line table and metadata, which the spec leaves unspecified, are empty: DESIGN CHOICE, log 4; so are the
two streams: DESIGN CHOICE, log 15. -/
def State.resetWith (cfg : Config) : State where
  cfg          := cfg
  code         := []
  lineTable    := []
  metadata     := []
  ip           := 0
  regs         := Vector.replicate 256 0
  tags         := Vector.replicate 256 0
  flag         := false
  stack        := []
  pointerSlots := []
  slab         := { cells := [] }
  tree         := .leaf cfg.slabExp cfg.slabBase false
  pool         := cfg.nodeCap - 1
  status       := .idle
  cause        := 0
  faultIp      := 0
  faultLine    := noLine
  out          := []
  diag         := []

/-- The state right after reset, with the default parameters (10_state.md R42, log 1). -/
def State.reset : State := State.resetWith Config.default

end Sys2Proof.Machine
end

