-- ==== Sys2Proof/Machine/Float.lean ====
section
/-! DEFINITION. IEEE 754 binary32 and binary64 (00_scope.md R11, 42_arithmetic.md R104, 43_compare.md R126). The
formats, the rounding and the special results are the spec's general knowledge (93_implementation_defined.md G1 to
G4): PRESUMED, log 14.

A finite number is held exactly, as a sign and a whole multiple of the format's smallest subnormal. Sums of such
multiples are whole, products and quotients are fractions of whole numbers, and one operation rounds a fraction to
the format. -/

namespace Sys2Proof.Machine

/-! ## Formats and values -/

/-- An interchange format: exponent and fraction widths (93_implementation_defined.md G1). -/
structure FloatFormat where
  expBits  : Nat
  fracBits : Nat
deriving DecidableEq, Repr

/-- binary32. -/
def binary32 : FloatFormat := { expBits := 8, fracBits := 23 }

/-- binary64. -/
def binary64 : FloatFormat := { expBits := 11, fracBits := 52 }

/-- The value of a bit pattern. `finite neg mag` is `mag` times the smallest subnormal, negated when `neg`; a zero
keeps its sign. -/
inductive FloatVal where
  | nan
  | inf (neg : Bool)
  | finite (neg : Bool) (mag : Nat)
deriving DecidableEq, Repr

/-- The exponent field of an infinity or a NaN: all ones. -/
def FloatFormat.maxExpField (F : FloatFormat) : Nat := 2 ^ F.expBits - 1

/-- The bits of +infinity. -/
def FloatFormat.infBits (F : FloatFormat) : Nat := F.maxExpField * 2 ^ F.fracBits

/-- The weight of the sign bit. -/
def FloatFormat.signBit (F : FloatFormat) : Nat := 2 ^ (F.expBits + F.fracBits)

/-- The smallest subnormal is 2 to the power −`unitExp`: 149 for binary32, 1074 for binary64. -/
def FloatFormat.unitExp (F : FloatFormat) : Nat := 2 ^ (F.expBits - 1) + F.fracBits - 2

/-- The value of a pattern, read as a number (00_scope.md R11: `f32`, `f64`). -/
def FloatFormat.unpack (F : FloatFormat) (b : Nat) : FloatVal :=
  let neg := decide (b / F.signBit % 2 = 1)
  let expField := b / 2 ^ F.fracBits % 2 ^ F.expBits
  let frac := b % 2 ^ F.fracBits
  if expField = F.maxExpField then (if frac = 0 then .inf neg else .nan)
  else if expField = 0 then .finite neg frac
  else .finite neg ((2 ^ F.fracBits + frac) * 2 ^ (expField - 1))

/-- The pattern of a sign and the pattern of a magnitude. -/
def FloatFormat.withSign (F : FloatFormat) (neg : Bool) (mag : Nat) : Nat :=
  if neg then F.signBit + mag else mag

/-! ## Rounding (00_scope.md R11: `round32`, `round64`) -/

/-- The whole number nearest to `num / den`, ties to even. -/
def roundHalfEven (num den : Nat) : Nat :=
  let q := num / den
  let r := num % den
  if den < 2 * r ∨ (2 * r = den ∧ q % 2 = 1) then q + 1 else q

/-- The pattern of the magnitude nearest to `num / den` smallest subnormals, ties to even: the quantum is 2^k units,
where k keeps one bit more than the fraction, or 0 in the subnormal range; a result beyond the largest finite number
is infinity (42_arithmetic.md R104). -/
def FloatFormat.roundMag (F : FloatFormat) (num den : Nat) : Nat :=
  let k := Nat.log2 (num / den) - F.fracBits
  min (k * 2 ^ F.fracBits + roundHalfEven num (den * 2 ^ k)) F.infBits

/-! ## Arithmetic: the pattern of the result, or none when it is a NaN (42_arithmetic.md R104) -/

/-- A finite value as a signed number of units. -/
def signedMag (neg : Bool) (mag : Nat) : Int := if neg then -(mag : Int) else (mag : Int)

/-- Addition. A sum that is exactly zero is −0 only when both operands are −0, else +0
(93_implementation_defined.md G3: +0 + −0 = +0; 42_arithmetic.md R115: x − x = +0). -/
def FloatFormat.add (F : FloatFormat) : FloatVal → FloatVal → Option Nat
  | .nan, _ => none
  | _, .nan => none
  | .inf n, .inf m => if n = m then some (F.withSign n F.infBits) else none
  | .inf n, .finite _ _ => some (F.withSign n F.infBits)
  | .finite _ _, .inf m => some (F.withSign m F.infBits)
  | .finite n a, .finite m b =>
    let sum := signedMag n a + signedMag m b
    if sum = 0 then some (F.withSign (n && m) 0)
    else some (F.withSign (decide (sum < 0)) (F.roundMag sum.natAbs 1))

/-- The value with its sign changed. -/
def FloatVal.negate : FloatVal → FloatVal
  | .nan => .nan
  | .inf n => .inf (!n)
  | .finite n a => .finite (!n) a

/-- Subtraction: addition of the negated subtrahend. -/
def FloatFormat.sub (F : FloatFormat) (x y : FloatVal) : Option Nat := F.add x y.negate

/-- Multiplication: the sign is the exclusive-or, 0·∞ is a NaN. -/
def FloatFormat.mul (F : FloatFormat) : FloatVal → FloatVal → Option Nat
  | .nan, _ => none
  | _, .nan => none
  | .inf n, .inf m => some (F.withSign (n ^^ m) F.infBits)
  | .inf n, .finite m b => if b = 0 then none else some (F.withSign (n ^^ m) F.infBits)
  | .finite n a, .inf m => if a = 0 then none else some (F.withSign (n ^^ m) F.infBits)
  | .finite n a, .finite m b => some (F.withSign (n ^^ m) (F.roundMag (a * b) (2 ^ F.unitExp)))

/-- Division: the sign is the exclusive-or; x/±0 is an infinity for nonzero finite x; 0/0 and ∞/∞ are NaNs. -/
def FloatFormat.div (F : FloatFormat) : FloatVal → FloatVal → Option Nat
  | .nan, _ => none
  | _, .nan => none
  | .inf _, .inf _ => none
  | .inf n, .finite m _ => some (F.withSign (n ^^ m) F.infBits)
  | .finite n _, .inf m => some (F.withSign (n ^^ m) 0)
  | .finite n a, .finite m b =>
    if b = 0 then (if a = 0 then none else some (F.withSign (n ^^ m) F.infBits))
    else some (F.withSign (n ^^ m) (F.roundMag (a * 2 ^ F.unitExp) b))

/-! ## Quiet comparison (43_compare.md R126) -/

/-- Equal: false on a NaN, +0 equals −0. -/
def FloatVal.eq : FloatVal → FloatVal → Bool
  | .inf n, .inf m => n == m
  | .finite n a, .finite m b => signedMag n a == signedMag m b
  | _, _ => false

/-- Less: false on a NaN. -/
def FloatVal.less : FloatVal → FloatVal → Bool
  | .nan, _ => false
  | _, .nan => false
  | .inf n, .inf m => n && !m
  | .inf n, .finite _ _ => n
  | .finite _ _, .inf m => !m
  | .finite n a, .finite m b => decide (signedMag n a < signedMag m b)

/-- Less or equal: false on a NaN. -/
def FloatVal.lessEq (x y : FloatVal) : Bool := x.less y || x.eq y

/-- Whether the value is +0 or −0. -/
def FloatVal.isZero : FloatVal → Bool
  | .finite _ mag => mag == 0
  | _ => false

/-! ## The two formats on bit patterns -/

/-- `f32(b)`. -/
def f32 (b : BitVec 32) : FloatVal := binary32.unpack b.toNat

/-- `f64(b)`. -/
def f64 (b : BitVec 64) : FloatVal := binary64.unpack b.toNat

/-- A binary32 NaN made from any bits: the bits themselves when they are a NaN, else with the exponent and the top
fraction bit set. Every NaN is the image of itself. -/
def asNaN32 (b : BitVec 32) : BitVec 32 := if f32 b = .nan then b else b ||| 0x7FC00000#32

/-- A binary64 NaN made from any bits. -/
def asNaN64 (b : BitVec 64) : BitVec 64 := if f64 b = .nan then b else b ||| 0x7FF8000000000000#64

/-- `NAN_RESULT(op, a, b)` in binary32: some NaN, which one is free (42_arithmetic.md R104, log 3). -/
def nanResult32 (op : BitVec 8) (a b : BitVec 32) : BitVec 32 := asNaN32 (Config.nanBits32 op a b)

/-- `NAN_RESULT(op, a, b)` in binary64: some NaN, which one is free (42_arithmetic.md R104, log 3). -/
def nanResult64 (op : BitVec 8) (a b : BitVec 64) : BitVec 64 := asNaN64 (Config.nanBits64 op a b)

/-- The 32-bit result of a binary32 operation on two patterns. -/
def float32Op (op : BitVec 8) (f : FloatVal → FloatVal → Option Nat) (a b : BitVec 32) : BitVec 32 :=
  match f (f32 a) (f32 b) with
  | some bits => BitVec.ofNat 32 bits
  | none => nanResult32 op a b

/-- The 64-bit result of a binary64 operation on two patterns. -/
def float64Op (op : BitVec 8) (f : FloatVal → FloatVal → Option Nat) (a b : BitVec 64) : BitVec 64 :=
  match f (f64 a) (f64 b) with
  | some bits => BitVec.ofNat 64 bits
  | none => nanResult64 op a b

end Sys2Proof.Machine
end

