-- ==== Sys2Proof/Machine/Alloc.lean ====
section
/-! DEFINITION. The buddy allocator (20_memory.md R57 to R66): `ExpFor`, `Alloc` with its search and split, `Free`
with its return walk and merge, `FreeAll`. -/

namespace Sys2Proof.Machine

/-- `clog2(n)`: the least k with 2^k ≥ n (00_scope.md R10). -/
def clog2 (n : Nat) : Nat := if n ≤ 1 then 0 else Nat.log2 (n - 1) + 1

/-- `ExpFor(n)`: the exponent of the smallest block that holds n bytes (20_memory.md R60). -/
def expFor (cfg : Config) (n : Nat) : Nat := max cfg.minExp (clog2 n)

/-! ## Nodes -/

/-- The exponent of a node. -/
def Node.e : Node → Nat
  | .leaf e _ _ => e
  | .split e _ _ _ => e

/-- The address of a node. -/
def Node.addr : Node → Nat
  | .leaf _ a _ => a
  | .split _ a _ _ => a

/-- The number of node records of a tree. -/
def Node.count : Node → Nat
  | .leaf _ _ _ => 1
  | .split _ _ l r => l.count + r.count + 1

/-- A free leaf. -/
def Node.isFreeLeaf : Node → Bool
  | .leaf _ _ allocated => !allocated
  | .split _ _ _ _ => false

/-- The leaves in address order: address, exponent, allocated. -/
def Node.leaves : Node → List (Nat × Nat × Bool)
  | .leaf e a allocated => [(a, e, allocated)]
  | .split _ _ l r => l.leaves ++ r.leaves

/-- The allocated leaves in address order: address, exponent. -/
def Node.allocatedLeaves : Node → List (Nat × Nat)
  | .leaf e a allocated => if allocated then [(a, e)] else []
  | .split _ _ l r => l.allocatedLeaves ++ r.allocatedLeaves

/-! ## Allocation (20_memory.md R61, R62) -/

/-- The subtree made of a free leaf of exponent `k + d` at `addr` when it is split `d` times along its low halves and
the last low half is allocated (20_memory.md R61, R62). -/
def carve (k addr : Nat) : Nat → Node
  | 0 => .leaf k addr true
  | d + 1 => .split (k + d + 1) addr (carve k addr d) (.leaf (k + d) (addr + 2 ^ (k + d)) false)

/-- `Search(n, k)`: depth first, low half first. Answers the address found, the changed subtree and the number of
splits made (20_memory.md R61). -/
def Node.search : Node → Nat → Option (Nat × Node × Nat)
  | .leaf e a allocated, k =>
    if e < k then none
    else if allocated then none
    else some (a, carve k a (e - k), e - k)
  | .split e a l r, k =>
    if e < k then none
    else
      match l.search k with
      | some (found, l', n) => some (found, .split e a l' r, n)
      | none =>
        match r.search k with
        | some (found, r', n) => some (found, .split e a l r', n)
        | none => none

/-- What `Alloc` answers. -/
inductive AllocResult where
  /-- The address of the block, and the tree and pool after. -/
  | found (addr : Nat) (tree : Node) (pool : Nat)
  /-- `OOM`: no free block of the exponent. -/
  | oom
  /-- A split found fewer than two records in the pool, which 20_memory.md R59 says never happens (log 7). -/
  | poolEmpty
deriving DecidableEq, Repr

/-- `Alloc(k0)` (20_memory.md R61); each split takes two records from the pool (R59, R62). -/
def allocBlock (cfg : Config) (tree : Node) (pool k0 : Nat) : AllocResult :=
  let k := max k0 cfg.minExp
  if k > cfg.slabExp then .oom
  else
    match tree.search k with
    | none => .oom
    | some (a, tree', splits) =>
      if 2 * splits ≤ pool then .found a tree' (pool - 2 * splits) else .poolEmpty

/-! ## Release (20_memory.md R63, R64, R65) -/

/-- `Merge(n)` for a split node with these children: the node after, and how many records go back to the pool
(20_memory.md R64). -/
def mergeNode (e addr : Nat) (l r : Node) : Node × Nat :=
  if l.isFreeLeaf && r.isFreeLeaf then (.leaf e addr false, 2) else (.split e addr l r, 0)

/-- Mark the child leaf at address `a` free, or `ALLOC_INVALID_FREE` when it is split, free or elsewhere
(20_memory.md R63). -/
def releaseLeaf : Node → Nat → Except Cause Node
  | .leaf e addr true, a => if addr = a then .ok (.leaf e addr false) else .error .allocInvalidFree
  | .leaf _ _ false, _ => .error .allocInvalidFree
  | .split _ _ _ _, _ => .error .allocInvalidFree

/-- `Return(n, a, k)`: the subtree after, and how many records its merges return to the pool (20_memory.md R63). -/
def Node.giveBack : Node → Nat → Nat → Except Cause (Node × Nat)
  | .leaf e _ _, _, k => if k ≥ e then .error .allocWrongLevel else .error .allocInvalidFree
  | .split e addr l r, a, k =>
    if k ≥ e then .error .allocWrongLevel
    else if addr ≤ a ∧ a < addr + 2 ^ (e - 1) then
      if k = e - 1 then
        match releaseLeaf l a with
        | .ok l' => .ok (mergeNode e addr l' r)
        | .error f => .error f
      else
        match l.giveBack a k with
        | .ok (l', n) => .ok ((mergeNode e addr l' r).1, n + (mergeNode e addr l' r).2)
        | .error f => .error f
    else if addr + 2 ^ (e - 1) ≤ a ∧ a < addr + 2 ^ e then
      if k = e - 1 then
        match releaseLeaf r a with
        | .ok r' => .ok (mergeNode e addr l r')
        | .error f => .error f
      else
        match r.giveBack a k with
        | .ok (r', n) => .ok ((mergeNode e addr l r').1, n + (mergeNode e addr l r').2)
        | .error f => .error f
    else .error .allocAddressOutOfNode

/-- The whole-slab case of `Free` (20_memory.md R63, 90_conflicts.md C7). -/
def freeRoot : Node → Nat → Except Cause Node
  | .leaf e addr true, a => if a = addr then .ok (.leaf e addr false) else .error .allocInvalidFree
  | .leaf _ _ false, _ => .error .allocInvalidFree
  | .split _ _ _ _, _ => .error .allocInvalidFree

/-- `Free(a, k)`: the tree and pool after, or the allocator fault, which changes nothing (20_memory.md R63). -/
def freeBlock (cfg : Config) (tree : Node) (pool a k : Nat) : Except Cause (Node × Nat) :=
  if k = cfg.slabExp then
    match freeRoot tree a with
    | .ok tree' => .ok (tree', pool)
    | .error f => .error f
  else
    match tree.giveBack a k with
    | .ok (tree', n) => .ok (tree', pool + n)
    | .error f => .error f

/-- One `Free` of `FreeAll`: a fault of the allocator port changes nothing (20_memory.md R63, R65, log 8). -/
def freeOne (cfg : Config) (tp : Node × Nat) (leaf : Nat × Nat) : Node × Nat :=
  match freeBlock cfg tp.1 tp.2 leaf.1 leaf.2 with
  | .ok tp' => tp'
  | .error _ => tp

/-- `FreeAll()`: `Free` for each allocated leaf, here in address order (20_memory.md R65, log 8). -/
def freeAllBlocks (cfg : Config) (tree : Node) (pool : Nat) : Node × Nat :=
  tree.allocatedLeaves.foldl (freeOne cfg) (tree, pool)

/-! ## The allocator invariant (20_memory.md R58) -/

/-- The subtree has exponent `e` and address `addr`, covers its range by halves, has no two free sibling leaves and
no node below `MIN_EXP`: R57 and R58 (a) to (d). -/
def Node.Shaped (minExp : Nat) : Node → Nat → Nat → Prop
  | .leaf e a _, e', a' => e = e' ∧ a = a' ∧ minExp ≤ e
  | .split e a l r, e', a' =>
    e = e' ∧ a = a' ∧ minExp < e ∧ ¬ (l.isFreeLeaf = true ∧ r.isFreeLeaf = true) ∧
      l.Shaped minExp (e - 1) a ∧ r.Shaped minExp (e - 1) (a + 2 ^ (e - 1))

/-- The allocator invariant R58 (a) to (e) of a tree and a pool. -/
structure AllocatorInv (cfg : Config) (tree : Node) (pool : Nat) : Prop where
  shaped  : tree.Shaped cfg.minExp cfg.slabExp cfg.slabBase
  records : tree.count + pool = cfg.nodeCap

end Sys2Proof.Machine
end

