-- ==== Sys2Proof/Machine/Memory.lean ====
section
/-! DEFINITION. The heap slab as data: reading and writing bytes and little-endian words (20_memory.md R46 to R51),
the canonical form, and what a field kind loads (R55). -/

namespace Sys2Proof.Machine

/-! ## Cells -/

/-- The byte listed at an address, if any. -/
def lookupCell : List Host.Cell → Nat → Option Byte
  | [], _ => none
  | (k, b) :: rest, a => if k = a then some b else lookupCell rest a

/-- The cells with the byte at address `a` set, addresses kept strictly rising. -/
def insertCell : List Host.Cell → Nat → Byte → List Host.Cell
  | [], a, v => [(a, v)]
  | (k, b) :: rest, a, v =>
    if a < k then (a, v) :: (k, b) :: rest
    else if a = k then (a, v) :: rest
    else (k, b) :: insertCell rest a v

/-- The canonical form: addresses strictly rising. An unlisted address has no written value, so no entry can repeat
one (log 2). -/
abbrev Memory.wf (m : Memory) : Prop := m.cells.Pairwise (fun x y => x.1 < y.1)

/-! ## Bytes -/

/-- The byte an address holds: the most recent write, or the `SLAB_INIT` byte if there is none (20_memory.md R51,
R67). -/
def Memory.byte (m : Memory) (a : Nat) : Byte :=
  match lookupCell m.cells a with
  | some b => b
  | none => Config.slabInit a

/-- Whether an address has ever been written. -/
def Memory.written (m : Memory) (a : Nat) : Bool := (lookupCell m.cells a).isSome

/-- Store one byte. -/
def Memory.setByte (m : Memory) (a : Nat) (v : Byte) : Memory := { cells := insertCell m.cells a v }

/-! ## Little-endian access of several bytes (20_memory.md R46, R47, R48) -/

/-- The sum of byte `a + j` times 2^(8j), j below `n`. -/
def Memory.readLE (m : Memory) (a : Nat) : Nat → Nat
  | 0 => 0
  | n + 1 => (m.byte a).toNat + 256 * Memory.readLE m (a + 1) n

/-- Store the `n` low bytes of `v`, least significant first. -/
def Memory.writeLE (m : Memory) (a : Nat) (v : Nat) : Nat → Memory
  | 0 => m
  | n + 1 => Memory.writeLE (m.setByte a (BitVec.ofNat 8 v)) (a + 1) (v / 256) n

/-! ## The slab -/

/-- `InSlab(a, n)`, on unbounded integers (20_memory.md R45). -/
abbrev inSlab (cfg : Config) (a n : Nat) : Prop :=
  cfg.slabBase ≤ a ∧ a + n ≤ cfg.slabBase + 2 ^ cfg.slabExp

/-! ## Field kinds (20_memory.md R55) -/

/-- The code of a kind in the metadata table. -/
def PrimKind.code : PrimKind → BitVec 8
  | .bool => 0
  | .i8 => 1
  | .i16 => 2
  | .i32 => 3
  | .i64 => 4
  | .u8 => 5
  | .u16 => 6
  | .u32 => 7
  | .u64 => 8
  | .f32 => 9
  | .f64 => 10
  | .structRef => 11
  | .arrayRef => 12

/-- The size of a kind in bytes. -/
def PrimKind.size : PrimKind → Nat
  | .bool | .i8 | .u8 => 1
  | .i16 | .u16 => 2
  | .i32 | .u32 | .f32 => 4
  | .i64 | .u64 | .f64 | .structRef | .arrayRef => 8

/-- Whether a load of the kind sign-extends. -/
def PrimKind.signExtends : PrimKind → Bool
  | .i8 | .i16 | .i32 => true
  | _ => false

/-- The tag kind a load of the kind writes. -/
def PrimKind.tagKind : PrimKind → TagKind
  | .bool | .u8 | .u16 | .u32 | .u64 => .raw
  | .i8 | .i16 | .i32 | .i64 => .signed
  | .f32 => .float
  | .f64 => .double
  | .structRef => .ptr
  | .arrayRef => .arrayPtr

/-- The loaded value `v` of `size` bytes, extended to 64 bits as the kind says (20_memory.md R55, 41_heap.md R98). -/
def PrimKind.extend (k : PrimKind) (v : Nat) : Cell64 :=
  if k.signExtends then (BitVec.ofNat (8 * k.size) v).signExtend 64 else BitVec.ofNat 64 v

/-- The object size of a type: the last field's offset plus its size, 0 with no field (20_memory.md R56). -/
def TypeMeta.size (t : TypeMeta) : Nat :=
  match t.fields.getLast? with
  | none => 0
  | some f => f.offset.toNat + f.kind.size

end Sys2Proof.Machine
end

