-- ==== Sys2Proof/Machine/Ops.lean ====
section
/-! DEFINITION. The named operations over the state: register writes, the value stack, the slab, the allocator port,
the streams, fetch, the end of a run, and taking a runtime error, which is the machine's one exception
(60_exceptions.md R167). There is no return from it (R169): only a host start runs code again. -/

namespace Sys2Proof.Machine

/-! ## How the pseudocode of an instruction can end (00_scope.md R12) -/

/-- Why an instruction's pseudocode ends before its last line. -/
inductive Stop where
  /-- `raise <Cause>`: a runtime error of the block. -/
  | cause (c : Cause)
  /-- The model stops: the spec gives no effect (log 7). -/
  | stuck (f : Fault)
deriving DecidableEq, Repr

/-- The outcome of one step. -/
abbrev StepResult := Host.Outcome State Fault Refusal

/-! ## Registers and tags -/

/-- `x[i]`, which is also `asRaw(i)` and `asPtr(i)` (10_state.md R22, R29). -/
def State.reg (s : State) (i : Reg) : Cell64 := s.regs[i.toNat]'i.isLt

/-- `tag[i]` (10_state.md R22). -/
def State.tag (s : State) (i : Reg) : Tag := s.tags[i.toNat]'i.isLt

/-- The 5-bit code of a tag kind (10_state.md R25). -/
def TagKind.code : TagKind → BitVec 5
  | .raw => 0b00000#5
  | .ptr => 0b00001#5
  | .signed => 0b00010#5
  | .float => 0b00100#5
  | .double => 0b01000#5
  | .arrayPtr => 0b10001#5

/-- A tag that keeps the reserved bits 7:5 of `old` and takes bits 4:0 (10_state.md R26, R27). -/
def retag (old : Tag) (low : BitVec 5) : Tag := old.extractLsb' 5 3 ++ low

/-- The tag of a stack slot: reserved bits 0, bits 4:0 of `t` (10_state.md R36, R39). -/
def slotTag (t : Tag) : Tag := 0#3 ++ t.extractLsb' 0 5

/-- The raw write of a value, the tag untouched: the result write of AND and OR only (10_state.md R28). -/
def State.setVal (s : State) (i : Reg) (v : Cell64) : State :=
  { s with regs := s.regs.set i.toNat v i.isLt }

/-- Bits 4:0 of `tag[i]` are rewritten, bits 7:5 kept (10_state.md R26, R27). -/
def State.setTagBits (s : State) (i : Reg) (low : BitVec 5) : State :=
  { s with tags := s.tags.set i.toNat (retag (s.tag i) low) i.isLt }

/-- `SetReg(i, v, kind)` (10_state.md R26). -/
def State.setReg (s : State) (i : Reg) (v : Cell64) (kind : TagKind) : State :=
  (s.setVal i v).setTagBits i kind.code

/-- `CopyReg(i, v, t)` (10_state.md R27). -/
def State.copyReg (s : State) (i : Reg) (v : Cell64) (t : Tag) : State :=
  (s.setVal i v).setTagBits i (t.extractLsb' 0 5)

/-! ## The comparison flag and the instruction pointer -/

/-- `flag <- b` (10_state.md R31). -/
def State.setFlag (s : State) (b : Bool) : State := { s with flag := b }

/-- `ip <- ip + 1`, in 25 bits (10_state.md R32, log 18). -/
def State.advance (s : State) : State := { s with ip := s.ip + 1 }

/-- `ip <- t` for a target that has been checked (10_state.md R32). -/
def State.jumpTo (s : State) (t : Nat) : State := { s with ip := BitVec.ofNat 25 t }

/-- `CODE_SIZE` (10_state.md R20). -/
def State.codeSize (s : State) : Nat := s.code.length

/-- The fetch of `code[ip]`, none when `ip ≥ CODE_SIZE` (60_exceptions.md R166). -/
def State.fetch (s : State) : Option Word := s.code[s.ip.toNat]?

/-! ## The value stack and the pointer-slot index (10_state.md R34 to R39) -/

/-- `P ∪ {k}`, the list kept strictly rising. -/
def insertIndex (k : Nat) : List Nat → List Nat
  | [] => [k]
  | j :: rest => if k < j then k :: j :: rest else if k = j then j :: rest else j :: insertIndex k rest

/-- `P \ {k}`. -/
def removeIndex (k : Nat) (p : List Nat) : List Nat := p.filter (fun j => j != k)

/-- Whether a tag has bit `T_PTR` (10_state.md R24). -/
def isPtrTag (t : Tag) : Bool := t.getLsbD 0

/-- Whether a tag has bit `T_ARRAY` (10_state.md R24). -/
def isArrayTag (t : Tag) : Bool := t.getLsbD 4

/-- `P` after slot `k` takes tag `t` (10_state.md R36, R39). -/
def markSlot (k : Nat) (t : Tag) (p : List Nat) : List Nat :=
  if isPtrTag t then insertIndex k p else removeIndex k p

/-- `Push(v, t)` (10_state.md R36, log 18). -/
def State.push (s : State) (v : Cell64) (t : Tag) : Except Stop State :=
  if s.stack.length ≥ s.cfg.stackCap then .error (.cause .stackOverflow)
  else
    .ok { s with
      stack := s.stack ++ [{ val := v, tag := slotTag t }]
      pointerSlots := if isPtrTag t then insertIndex s.stack.length s.pointerSlots else s.pointerSlots }

/-- `Truncate(n)` (10_state.md R38). -/
def State.truncate (s : State) (n : Nat) : State :=
  { s with stack := s.stack.take n, pointerSlots := s.pointerSlots.filter (fun k => k < n) }

/-- `Pop()`: the slot removed and the state after (10_state.md R37). -/
def State.pop (s : State) : Except Stop (Slot × State) :=
  match s.stack.getLast? with
  | none => .error (.cause .stackUnderflow)
  | some slot =>
    .ok (slot, { s with
      stack := s.stack.dropLast
      pointerSlots := removeIndex (s.stack.length - 1) s.pointerSlots })

/-- `WriteSlot(k, v, t)`, for k below the stack size (10_state.md R39). -/
def State.writeSlot (s : State) (k : Nat) (v : Cell64) (t : Tag) : State :=
  { s with
    stack := s.stack.set k { val := v, tag := slotTag t }
    pointerSlots := markSlot k t s.pointerSlots }

/-! ## The heap slab (20_memory.md R45, R46, R47) -/

/-- `MemRead(a, n)`: the value read, of 8n bits. -/
def State.memRead (s : State) (a n : Nat) : Except Stop Nat :=
  if inSlab s.cfg a n then .ok (s.slab.readLE a n) else .error (.cause .addressOutOfRange)

/-- `MemWrite(a, n, v)`: the low n bytes of `v` are stored. -/
def State.memWrite (s : State) (a n : Nat) (v : Cell64) : Except Stop State :=
  if inSlab s.cfg a n then .ok { s with slab := s.slab.writeLE a v.toNat n }
  else .error (.cause .addressOutOfRange)

/-! ## The allocator port (20_memory.md R61, R65, 41_heap.md R96, R97) -/

/-- `Alloc(k)`, with `OOM` raised as `OUT_OF_MEMORY`: the address and the state after. -/
def State.alloc (s : State) (k : Nat) : Except Stop (Nat × State) :=
  match allocBlock s.cfg s.tree s.pool k with
  | .found a tree pool => .ok (a, { s with tree := tree, pool := pool })
  | .oom => .error (.cause .outOfMemory)
  | .poolEmpty => .error (.stuck .nodePoolEmpty)

/-- `FreeAll()` on the state. -/
def State.freeAll (s : State) : State :=
  { s with
    tree := (freeAllBlocks s.cfg s.tree s.pool).1
    pool := (freeAllBlocks s.cfg s.tree s.pool).2 }

/-! ## The output stream (10_state.md R18) -/

/-- `emit Out(kind, bits)`. -/
def State.emit (s : State) (kind : OutKind) (bits : Cell64) : State :=
  { s with out := s.out ++ [{ kind := kind, bits := bits }] }

/-! ## Taking a runtime error (60_exceptions.md R164, R167) -/

/-- The code of a cause (60_exceptions.md R164). -/
def Cause.code : Cause → BitVec 8
  | .illegalOpcode => 1
  | .ipOutOfRange => 2
  | .jumpOutOfRange => 3
  | .notAPointer => 4
  | .notAnArray => 5
  | .arrayIndexOutOfBounds => 6
  | .addressOutOfRange => 7
  | .unknownType => 8
  | .unknownField => 9
  | .invalidArraySpan => 10
  | .outOfMemory => 11
  | .stackOverflow => 12
  | .stackUnderflow => 13
  | .stackFrameOutOfBounds => 14
  | .badFrame => 15
  | .divideByZero => 16
  | .allocWrongLevel => 17
  | .allocAddressOutOfNode => 18
  | .allocInvalidFree => 19

/-- The message text of a cause (60_exceptions.md R164). -/
def Cause.message : Cause → String
  | .illegalOpcode => "illegal opcode"
  | .ipOutOfRange => "instruction pointer out of range"
  | .jumpOutOfRange => "jump target out of range"
  | .notAPointer => "register not a memory address"
  | .notAnArray => "pointer held in register is not an array"
  | .arrayIndexOutOfBounds => "array index out of bounds"
  | .addressOutOfRange => "address outside the heap"
  | .unknownType => "unknown type"
  | .unknownField => "unknown field"
  | .invalidArraySpan => "invalid array element span"
  | .outOfMemory => "out of memory"
  | .stackOverflow => "stack overflow"
  | .stackUnderflow => "stack underflow"
  | .stackFrameOutOfBounds => "stack frame access out of bounds"
  | .badFrame => "no frame to return from"
  | .divideByZero => "division by zero"
  | .allocWrongLevel => "freed at the wrong tree level"
  | .allocAddressOutOfNode => "memory returned to the wrong node"
  | .allocInvalidFree => "invalid free"

/-- `GetLine(offset)`: the line of the first run whose cumulative count exceeds the offset, else `NO_LINE`
(10_state.md R21). -/
def getLine : List LineRun → Nat → Cell64
  | [], _ => noLine
  | run :: rest, offset => if offset < run.count then run.line else getLine rest (offset - run.count)

/-- `Fault(cause, i)`, i the index of the instruction being executed: the whole trap entry (60_exceptions.md R167). -/
def State.takeRuntimeError (s : State) (c : Cause) : State :=
  { s with
    status := .runtimeError
    cause := c.code
    faultIp := s.ip
    faultLine := getLine s.lineTable s.ip.toNat
    diag := s.diag ++ [{ cause := c.code, faultIp := s.ip, line := getLine s.lineTable s.ip.toNat }] }

/-- The outcome of an instruction whose pseudocode, run from `s`, answers `r`. Since an error is taken from `s`, an
instruction that raises has written nothing (60_exceptions.md R167, 00_scope.md R12). -/
def State.settle (s : State) (r : Except Stop State) : StepResult :=
  match r with
  | .ok t => .next t
  | .error (.cause c) => .next (s.takeRuntimeError c)
  | .error (.stuck f) => .fault f

/-! ## The end of a run (46_halt_output.md R163) -/

/-- Every register and tag to 0, reserved bits included. -/
def State.clearRegs (s : State) : State :=
  { s with regs := Vector.replicate 256 0, tags := Vector.replicate 256 0 }

/-- `STATUS <- HALTED`. -/
def State.halted (s : State) : State := { s with status := .halted }

end Sys2Proof.Machine
end

