-- ==== Sys2Proof/Machine/Operands.lean ====
section
/-! DEFINITION. How an instruction reads its operands: the typed views of a register, immediates and jump targets,
frame slots, and the checked location of a field or an array element. -/

namespace Sys2Proof.Machine

/-! ## Typed views of register i (10_state.md R29) -/

/-- `asRaw(i)`, as an unsigned number. -/
def State.asUnsigned (s : State) (i : Reg) : Nat := (s.reg i).toNat

/-- `asSigned(i)`. -/
def State.asSigned (s : State) (i : Reg) : Int := (s.reg i).toInt

/-- Bits 31:0 of register i, the operand of a binary32 instruction. -/
def State.reg32 (s : State) (i : Reg) : BitVec 32 := (s.reg i).extractLsb' 0 32

/-- `asFloat(i)`. -/
def State.asFloat (s : State) (i : Reg) : FloatVal := f32 (s.reg32 i)

/-- `asDouble(i)`. -/
def State.asDouble (s : State) (i : Reg) : FloatVal := f64 (s.reg i)

/-! ## Immediates (30_encoding.md R77, R78) -/

/-- The 32-bit pattern of a 24-bit immediate: bit 23 tested, 0xFF000000 or-ed in when it is set (R78). -/
def ext32 (imm24 : BitVec 24) : BitVec 32 :=
  if imm24.getLsbD 23 then imm24.setWidth 32 ||| 0xFF000000#32 else imm24.setWidth 32

/-- The offset of a `J` instruction, in words (R78). -/
def offset24 (imm24 : BitVec 24) : Int := (ext32 imm24).toInt

/-- The four 16-bit quarters of a register that the CONST instructions overwrite (40_data_movement.md R86). -/
inductive Quarter where
  | low
  | midLow
  | midHigh
  | high
deriving DecidableEq, Repr

/-- The value `v` with one quarter replaced by `imm16` (40_data_movement.md R88, R90, R91, R92). -/
def withQuarter (v : Cell64) (q : Quarter) (imm16 : BitVec 16) : Cell64 :=
  match q with
  | .low => v.extractLsb' 16 48 ++ imm16
  | .midLow => v.extractLsb' 32 32 ++ imm16 ++ v.extractLsb' 0 16
  | .midHigh => v.extractLsb' 48 16 ++ imm16 ++ v.extractLsb' 0 32
  | .high => imm16 ++ v.extractLsb' 0 48

/-! ## Targets (44_control.md R142, R143, R145) -/

/-- The relative target `i + 1 + off`, an exact integer (R142). -/
def State.relTarget (s : State) (imm24 : BitVec 24) : Int := (s.ip.toNat : Int) + 1 + offset24 imm24

/-- A target in `[0, CODE_SIZE)`, or `JUMP_OUT_OF_RANGE` (R143). -/
def State.checkTarget (s : State) (t : Int) : Except Stop Nat :=
  if 0 ≤ t ∧ t < (s.codeSize : Int) then .ok t.toNat else .error (.cause .jumpOutOfRange)

/-! ## Frame slots (45_stack_call.md R159, R160) -/

/-- `x[FRAME_REG]`, as an unsigned number (10_state.md R23). -/
def State.frameBase (s : State) : Nat := s.asUnsigned s.cfg.frameReg

/-- The slot `x[FRAME_REG] + x[A]`, an exact sum, with its contents; `STACK_FRAME_OUT_OF_BOUNDS` when it does not
exist. -/
def State.frameSlot (s : State) (a : Reg) : Except Stop (Nat × Slot) :=
  match s.stack[s.frameBase + s.asUnsigned a]? with
  | none => .error (.cause .stackFrameOutOfBounds)
  | some slot => .ok (s.frameBase + s.asUnsigned a, slot)

/-! ## Fields and elements (41_heap.md R93 to R101) -/

/-- `Meta(tid)`, or `UNKNOWN_TYPE` (20_memory.md R54). -/
def State.typeOf (s : State) (tid : Nat) : Except Stop TypeMeta :=
  match s.metadata[tid]? with
  | none => .error (.cause .unknownType)
  | some t => .ok t

/-- Field j of a type, or `UNKNOWN_FIELD` (41_heap.md R98). -/
def fieldOf (t : TypeMeta) (j : Nat) : Except Stop FieldMeta :=
  match t.fields[j]? with
  | none => .error (.cause .unknownField)
  | some f => .ok f

/-- Register A must carry the pointer tag, else `NOT_A_POINTER` (41_heap.md R93). -/
def State.checkPtr (s : State) (a : Reg) : Except Stop Unit :=
  if isPtrTag (s.tag a) then .ok () else .error (.cause .notAPointer)

/-- Register A must carry the array tag, else `NOT_AN_ARRAY` (41_heap.md R93). -/
def State.checkArray (s : State) (a : Reg) : Except Stop Unit :=
  if isArrayTag (s.tag a) then .ok () else .error (.cause .notAnArray)

/-- The type identifier of a selector, `sel[63:32]` (41_heap.md R94). -/
def selType (sel : Cell64) : Nat := (sel.extractLsb' 32 32).toNat

/-- The field index of a selector, `sel[31:0]` (41_heap.md R94). -/
def selField (sel : Cell64) : Nat := (sel.extractLsb' 0 32).toNat

/-- The field that pointer A and selector B name: its byte address, an exact sum, and its kind (41_heap.md R98). -/
def State.fieldAt (s : State) (a b : Reg) : Except Stop (Nat × PrimKind) := do
  s.checkPtr a
  let t ← s.typeOf (selType (s.reg b))
  let f ← fieldOf t (selField (s.reg b))
  return (s.asUnsigned a + f.offset.toNat, f.kind)

/-- A span of 1, 2, 4 or 8 bytes (41_heap.md R95). -/
abbrev spanOk (span : Nat) : Prop := span = 1 ∨ span = 2 ∨ span = 4 ∨ span = 8

/-- The span, or `INVALID_ARRAY_SPAN` (41_heap.md R97, R100). -/
def checkSpan (span : Nat) : Except Stop Unit :=
  if spanOk span then .ok () else .error (.cause .invalidArraySpan)

/-- The index must be below the stored count, else `ARRAY_INDEX_OUT_OF_BOUNDS` (41_heap.md R100). -/
def checkIndex (i count : Nat) : Except Stop Unit :=
  if i < count then .ok () else .error (.cause .arrayIndexOutOfBounds)

/-- The array element that pointer A and index B name: its byte address and the array's span, after the checks of
41_heap.md R100 in their order, the element's own bounds left to the access. -/
def State.elementAt (s : State) (a b : Reg) : Except Stop (Nat × Nat) := do
  s.checkPtr a
  s.checkArray a
  let count ← s.memRead (s.asUnsigned a) 8
  let span ← s.memRead (s.asUnsigned a + 8) 8
  checkSpan span
  checkIndex (s.asUnsigned b) count
  return (s.asUnsigned a + 16 + s.asUnsigned b * span, span)

end Sys2Proof.Machine
end

