-- ==== Sys2Proof/Machine/Arithmetic.lean ====
section
/-! DEFINITION. Arithmetic and bitwise instructions (42_arithmetic.md R102 to R123). -/

namespace Sys2Proof.Machine

/-- INT_ADD: the exact signed result, low 64 bits, kind `SIGNED` (R103, R106). -/
def execIntAdd (a b c : Reg) (s : State) : StepResult :=
  .next (s.setReg c (BitVec.ofInt 64 (s.asSigned a + s.asSigned b)) .signed).advance

/-- INT_SUBTRACT: the exact signed result, low 64 bits, kind `SIGNED` (R103, R107). -/
def execIntSubtract (a b c : Reg) (s : State) : StepResult :=
  .next (s.setReg c (BitVec.ofInt 64 (s.asSigned a - s.asSigned b)) .signed).advance

/-- INT_MULTIPLY: the exact signed result, low 64 bits, kind `SIGNED` (R103, R108). -/
def execIntMultiply (a b c : Reg) (s : State) : StepResult :=
  .next (s.setReg c (BitVec.ofInt 64 (s.asSigned a * s.asSigned b)) .signed).advance

/-- INT_DIVIDE: the signed quotient truncated toward zero, low 64 bits, kind `SIGNED`; `DIVIDE_BY_ZERO` (R103, R109). -/
def execIntDivide (a b c : Reg) (s : State) : StepResult :=
  s.settle
    (if s.asSigned b = 0 then .error (.cause .divideByZero)
    else .ok (s.setReg c (BitVec.ofInt 64 ((s.asSigned a).tdiv (s.asSigned b))) .signed).advance)

/-- UINT_ADD: the exact unsigned result, low 64 bits, kind `RAW` (R103, R110). -/
def execUintAdd (a b c : Reg) (s : State) : StepResult :=
  .next (s.setReg c (BitVec.ofInt 64 ((s.asUnsigned a : Int) + (s.asUnsigned b : Int))) .raw).advance

/-- UINT_SUBTRACT: the exact unsigned result, low 64 bits, kind `RAW` (R103, R111). -/
def execUintSubtract (a b c : Reg) (s : State) : StepResult :=
  .next (s.setReg c (BitVec.ofInt 64 ((s.asUnsigned a : Int) - (s.asUnsigned b : Int))) .raw).advance

/-- UINT_MULTIPLY: the exact unsigned result, low 64 bits, kind `RAW` (R103, R112). -/
def execUintMultiply (a b c : Reg) (s : State) : StepResult :=
  .next (s.setReg c (BitVec.ofInt 64 ((s.asUnsigned a : Int) * (s.asUnsigned b : Int))) .raw).advance

/-- UINT_DIVIDE: the floor of the unsigned quotient, kind `RAW`; `DIVIDE_BY_ZERO` (R103, R113). -/
def execUintDivide (a b c : Reg) (s : State) : StepResult :=
  s.settle
    (if s.asUnsigned b = 0 then .error (.cause .divideByZero)
    else .ok (s.setReg c (BitVec.ofNat 64 (s.asUnsigned a / s.asUnsigned b)) .raw).advance)

/-- FLOAT_ADD: the binary32 result, kind `FLOAT` (R104, R114). -/
def execFloatAdd (a b c : Reg) (s : State) : StepResult :=
  .next (s.setReg c ((float32Op 0x20 binary32.add (s.reg32 a) (s.reg32 b)).setWidth 64) .float).advance

/-- FLOAT_SUBTRACT: the binary32 result, kind `FLOAT` (R104, R115). -/
def execFloatSubtract (a b c : Reg) (s : State) : StepResult :=
  .next (s.setReg c ((float32Op 0x21 binary32.sub (s.reg32 a) (s.reg32 b)).setWidth 64) .float).advance

/-- FLOAT_MULTIPLY: the binary32 result, kind `FLOAT` (R104, R116). -/
def execFloatMultiply (a b c : Reg) (s : State) : StepResult :=
  .next (s.setReg c ((float32Op 0x22 binary32.mul (s.reg32 a) (s.reg32 b)).setWidth 64) .float).advance

/-- FLOAT_DIVIDE: the binary32 result, kind `FLOAT` (R104, R117). -/
def execFloatDivide (a b c : Reg) (s : State) : StepResult :=
  .next (s.setReg c ((float32Op 0x23 binary32.div (s.reg32 a) (s.reg32 b)).setWidth 64) .float).advance

/-- DOUBLE_ADD: the binary64 result, kind `DOUBLE` (R104, R118). -/
def execDoubleAdd (a b c : Reg) (s : State) : StepResult :=
  .next (s.setReg c (float64Op 0x24 binary64.add (s.reg a) (s.reg b)) .double).advance

/-- DOUBLE_SUBTRACT: the binary64 result, kind `DOUBLE` (R104, R119). -/
def execDoubleSubtract (a b c : Reg) (s : State) : StepResult :=
  .next (s.setReg c (float64Op 0x25 binary64.sub (s.reg a) (s.reg b)) .double).advance

/-- DOUBLE_MULTIPLY: the binary64 result, kind `DOUBLE` (R104, R120). -/
def execDoubleMultiply (a b c : Reg) (s : State) : StepResult :=
  .next (s.setReg c (float64Op 0x26 binary64.mul (s.reg a) (s.reg b)) .double).advance

/-- DOUBLE_DIVIDE: the binary64 result, kind `DOUBLE` (R104, R121). -/
def execDoubleDivide (a b c : Reg) (s : State) : StepResult :=
  .next (s.setReg c (float64Op 0x27 binary64.div (s.reg a) (s.reg b)) .double).advance

/-- AND: bitwise and, the tag of C kept (R105, R122). -/
def execBitAnd (a b c : Reg) (s : State) : StepResult :=
  .next (s.setVal c (s.reg a &&& s.reg b)).advance

/-- OR: bitwise or, the tag of C kept (R105, R123). -/
def execBitOr (a b c : Reg) (s : State) : StepResult :=
  .next (s.setVal c (s.reg a ||| s.reg b)).advance

end Sys2Proof.Machine
end

