-- ==== Sys2Proof/Machine/Flags.lean ====
section
/-! DEFINITION. The booleans that reach the comparison flag: `isTruthy` (10_state.md R30), the comparisons
(43_compare.md R124 to R140), and the one write they share. -/

namespace Sys2Proof.Machine

/-- `isTruthy(i)`: a `DOUBLE` or `FLOAT` register is tested against both zeros, any other on its raw bits
(10_state.md R30). -/
def State.isTruthy (s : State) (i : Reg) : Bool :=
  if (s.tag i).getLsbD 3 then !(s.asDouble i).isZero
  else if (s.tag i).getLsbD 2 then !(s.asFloat i).isZero
  else decide (s.reg i ≠ 0)

/-- A boolean in a register: 1 or 0 (43_compare.md R124). -/
def boolCell (b : Bool) : Cell64 := if b then 1 else 0

/-- What every comparison and TEST writes: the boolean into register c with kind `RAW`, and into the flag
(43_compare.md R124). -/
def State.writeBool (s : State) (c : Reg) (b : Bool) : State := (s.setReg c (boolCell b) .raw).setFlag b

/-- EQUAL on the raw patterns (43_compare.md R127). -/
def State.cmpEqual (s : State) (a b : Reg) : Bool := decide (s.reg a = s.reg b)

/-- Signed less-than (43_compare.md R129). -/
def State.cmpIntLess (s : State) (a b : Reg) : Bool := decide (s.asSigned a < s.asSigned b)

/-- Signed less-or-equal (43_compare.md R130). -/
def State.cmpIntLessEqual (s : State) (a b : Reg) : Bool := decide (s.asSigned a ≤ s.asSigned b)

/-- Unsigned less-than (43_compare.md R131). -/
def State.cmpUintLess (s : State) (a b : Reg) : Bool := decide (s.asUnsigned a < s.asUnsigned b)

/-- Unsigned less-or-equal (43_compare.md R132). -/
def State.cmpUintLessEqual (s : State) (a b : Reg) : Bool := decide (s.asUnsigned a ≤ s.asUnsigned b)

/-- binary32 equal (43_compare.md R133). -/
def State.cmpFloatEqual (s : State) (a b : Reg) : Bool := (s.asFloat a).eq (s.asFloat b)

/-- binary32 less (43_compare.md R135). -/
def State.cmpFloatLess (s : State) (a b : Reg) : Bool := (s.asFloat a).less (s.asFloat b)

/-- binary32 less or equal (43_compare.md R136). -/
def State.cmpFloatLessEqual (s : State) (a b : Reg) : Bool := (s.asFloat a).lessEq (s.asFloat b)

/-- binary64 equal (43_compare.md R137). -/
def State.cmpDoubleEqual (s : State) (a b : Reg) : Bool := (s.asDouble a).eq (s.asDouble b)

/-- binary64 less (43_compare.md R139). -/
def State.cmpDoubleLess (s : State) (a b : Reg) : Bool := (s.asDouble a).less (s.asDouble b)

/-- binary64 less or equal (43_compare.md R140). -/
def State.cmpDoubleLessEqual (s : State) (a b : Reg) : Bool := (s.asDouble a).lessEq (s.asDouble b)

/-- The record kind of register i in the output stream (46_halt_output.md R161). -/
def State.outKind (s : State) (i : Reg) : OutKind :=
  if (s.tag i).getLsbD 3 then .double
  else if (s.tag i).getLsbD 2 then .float
  else if (s.tag i).getLsbD 1 then .signed
  else .unsigned

end Sys2Proof.Machine
end

