-- ==== Sys2Proof/Machine/Compare.lean ====
section
/-! DEFINITION. Comparison and truth-test instructions (43_compare.md R124 to R141). -/

namespace Sys2Proof.Machine

/-- EQUAL (R127). -/
def execEqual (a b c : Reg) (s : State) : StepResult :=
  .next (s.writeBool c (s.cmpEqual a b)).advance

/-- NOT_EQUAL (R128). -/
def execNotEqual (a b c : Reg) (s : State) : StepResult :=
  .next (s.writeBool c (!(s.cmpEqual a b))).advance

/-- INT_LESS (R129). -/
def execIntLess (a b c : Reg) (s : State) : StepResult :=
  .next (s.writeBool c (s.cmpIntLess a b)).advance

/-- INT_LESS_EQUAL (R130). -/
def execIntLessEqual (a b c : Reg) (s : State) : StepResult :=
  .next (s.writeBool c (s.cmpIntLessEqual a b)).advance

/-- UINT_LESS (R131). -/
def execUintLess (a b c : Reg) (s : State) : StepResult :=
  .next (s.writeBool c (s.cmpUintLess a b)).advance

/-- UINT_LESS_EQUAL (R132). -/
def execUintLessEqual (a b c : Reg) (s : State) : StepResult :=
  .next (s.writeBool c (s.cmpUintLessEqual a b)).advance

/-- FLOAT_EQUAL (R133). -/
def execFloatEqual (a b c : Reg) (s : State) : StepResult :=
  .next (s.writeBool c (s.cmpFloatEqual a b)).advance

/-- FLOAT_NOT_EQUAL (R134). -/
def execFloatNotEqual (a b c : Reg) (s : State) : StepResult :=
  .next (s.writeBool c (!(s.cmpFloatEqual a b))).advance

/-- FLOAT_LESS (R135). -/
def execFloatLess (a b c : Reg) (s : State) : StepResult :=
  .next (s.writeBool c (s.cmpFloatLess a b)).advance

/-- FLOAT_LESS_EQUAL (R136). -/
def execFloatLessEqual (a b c : Reg) (s : State) : StepResult :=
  .next (s.writeBool c (s.cmpFloatLessEqual a b)).advance

/-- DOUBLE_EQUAL (R137). -/
def execDoubleEqual (a b c : Reg) (s : State) : StepResult :=
  .next (s.writeBool c (s.cmpDoubleEqual a b)).advance

/-- DOUBLE_NOT_EQUAL (R138). -/
def execDoubleNotEqual (a b c : Reg) (s : State) : StepResult :=
  .next (s.writeBool c (!(s.cmpDoubleEqual a b))).advance

/-- DOUBLE_LESS (R139). -/
def execDoubleLess (a b c : Reg) (s : State) : StepResult :=
  .next (s.writeBool c (s.cmpDoubleLess a b)).advance

/-- DOUBLE_LESS_EQUAL (R140). -/
def execDoubleLessEqual (a b c : Reg) (s : State) : StepResult :=
  .next (s.writeBool c (s.cmpDoubleLessEqual a b)).advance

/-- TEST: the truth value of register A, which its tag selects (R141). -/
def execTest (a b : Reg) (s : State) : StepResult :=
  .next (s.writeBool b (s.isTruthy a)).advance

end Sys2Proof.Machine
end

