-- ==== Sys2Proof/Machine/Control.lean ====
section
/-! DEFINITION. Control transfer (44_control.md R142 to R149). -/

namespace Sys2Proof.Machine

/-- JUMP: to the relative target (R146). -/
def execJump (imm24 : BitVec 24) (s : State) : StepResult :=
  s.settle do
    let t ← s.checkTarget (s.relTarget imm24)
    return s.jumpTo t

/-- JUMP_IF: to the relative target when the flag is set, which clears it; the target of an untaken jump is not checked (R144, R147). -/
def execJumpIf (imm24 : BitVec 24) (s : State) : StepResult :=
  s.settle
    (if s.flag then do
      let t ← s.checkTarget (s.relTarget imm24)
      return (s.setFlag false).jumpTo t
    else .ok s.advance)

/-- JUMP_ABS: to the index in register A, read unsigned (R145, R148). -/
def execJumpAbs (a : Reg) (s : State) : StepResult :=
  s.settle do
    let t ← s.checkTarget (s.asUnsigned a)
    return s.jumpTo t

/-- JUMP_ABS_IF: to the index in register A when the flag is set, which clears it (R144, R149). -/
def execJumpAbsIf (a : Reg) (s : State) : StepResult :=
  s.settle
    (if s.flag then do
      let t ← s.checkTarget (s.asUnsigned a)
      return (s.setFlag false).jumpTo t
    else .ok s.advance)

end Sys2Proof.Machine
end

