-- ==== Sys2Proof/Machine/DataMovement.lean ====
section
/-! DEFINITION. Data movement and constants (40_data_movement.md R86 to R92). -/

namespace Sys2Proof.Machine

/-- MOVE: copy a register and its tag bits 4:0 (R87). -/
def execMove (a b : Reg) (s : State) : StepResult :=
  .next (s.copyReg b (s.reg a) (s.tag a)).advance

/-- CONST_LOW: write bits 15:0 (R88). -/
def execConstLow (a : Reg) (imm16 : BitVec 16) (s : State) : StepResult :=
  .next (s.setReg a (withQuarter (s.reg a) .low imm16) .raw).advance

/-- CONST_LOW_NEGATIVE: write the sign-extended immediate (R89). -/
def execConstLowNegative (a : Reg) (imm16 : BitVec 16) (s : State) : StepResult :=
  .next (s.setReg a (imm16.signExtend 64) .signed).advance

/-- CONST_MID_LOW: write bits 31:16 (R90). -/
def execConstMidLow (a : Reg) (imm16 : BitVec 16) (s : State) : StepResult :=
  .next (s.setReg a (withQuarter (s.reg a) .midLow imm16) .raw).advance

/-- CONST_MID_HIGH: write bits 47:32 (R91). -/
def execConstMidHigh (a : Reg) (imm16 : BitVec 16) (s : State) : StepResult :=
  .next (s.setReg a (withQuarter (s.reg a) .midHigh imm16) .raw).advance

/-- CONST_HIGH: write bits 63:48 (R92). -/
def execConstHigh (a : Reg) (imm16 : BitVec 16) (s : State) : StepResult :=
  .next (s.setReg a (withQuarter (s.reg a) .high imm16) .raw).advance

end Sys2Proof.Machine
end

