-- ==== Sys2Proof/Machine/HaltOutput.lean ====
section
/-! DEFINITION. Output and halt (46_halt_output.md R161 to R163). -/

namespace Sys2Proof.Machine

/-- OUT: append the record of a register (R162). -/
def execOut (a : Reg) (s : State) : StepResult :=
  .next (s.emit (s.outKind a) (s.reg a)).advance

/-- HALT: print the return register, clear the machine and end the run with success (R163). -/
def execHalt (s : State) : StepResult :=
  .next
    ((((((s.emit (s.outKind s.cfg.returnReg) (s.reg s.cfg.returnReg)).clearRegs.truncate 0).freeAll).setFlag
      false).advance).halted)

end Sys2Proof.Machine
end

