-- ==== Sys2Proof/Machine/Heap.lean ====
section
/-! DEFINITION. Heap allocation and field and array access (41_heap.md R93 to R101). -/

namespace Sys2Proof.Machine

/-- ALLOC: allocate a struct of the type that register A names (R96). -/
def execAlloc (a b : Reg) (s : State) : StepResult :=
  s.settle do
    let t ← s.typeOf (s.asUnsigned a)
    let (r, s1) ← s.alloc (expFor s.cfg t.size)
    return (s1.setReg b (BitVec.ofNat 64 r) .ptr).advance

/-- ALLOC_ARRAY: allocate an array of `x[A]` elements of `x[B]` bytes and write its header (R95, R97, log 20). -/
def execAllocArray (a b c : Reg) (s : State) : StepResult :=
  s.settle do
    checkSpan (s.asUnsigned b)
    let (r, s1) ← s.alloc (expFor s.cfg (16 + s.asUnsigned a * s.asUnsigned b))
    let s2 ← s1.memWrite r 8 (s.reg a)
    let s3 ← s2.memWrite (r + 8) 8 (s.reg b)
    return (s3.setReg c (BitVec.ofNat 64 r) .arrayPtr).advance

/-- STRUCT_LOAD: load a field, extended and tagged as its kind says (R98). -/
def execStructLoad (a b c : Reg) (s : State) : StepResult :=
  s.settle do
    let (addr, kind) ← s.fieldAt a b
    let v ← s.memRead addr kind.size
    return (s.setReg c (kind.extend v) kind.tagKind).advance

/-- STRUCT_STORE: store the low bytes of register C in a field (R99). -/
def execStructStore (a b c : Reg) (s : State) : StepResult :=
  s.settle do
    let (addr, kind) ← s.fieldAt a b
    let s1 ← s.memWrite addr kind.size (s.reg c)
    return s1.advance

/-- ARRAY_LOAD: load an element, zero-extended, kind `RAW` (R100). -/
def execArrayLoad (a b c : Reg) (s : State) : StepResult :=
  s.settle do
    let (addr, span) ← s.elementAt a b
    let v ← s.memRead addr span
    return (s.setReg c (BitVec.ofNat 64 v) .raw).advance

/-- ARRAY_STORE: store the low bytes of register C in an element (R101). -/
def execArrayStore (a b c : Reg) (s : State) : StepResult :=
  s.settle do
    let (addr, span) ← s.elementAt a b
    let s1 ← s.memWrite addr span (s.reg c)
    return s1.advance

end Sys2Proof.Machine
end

