-- ==== Sys2Proof/Machine/StackCall.lean ====
section
/-! DEFINITION. The value stack, call and return (45_stack_call.md R151 to R160). -/

namespace Sys2Proof.Machine

/-- PUSH: push a register and its tag (R153). -/
def execPush (a : Reg) (s : State) : StepResult :=
  s.settle do
    let s1 ← s.push (s.reg a) (s.tag a)
    return s1.advance

/-- POP: pop into a register with its tag (R154). -/
def execPop (a : Reg) (s : State) : StepResult :=
  s.settle do
    let (slot, s1) ← s.pop
    return (s1.copyReg a slot.val slot.tag).advance

/-- MOVE_FROM_STACK_FRAME: read a local of the current frame (R159). -/
def execMoveFromStackFrame (a b : Reg) (s : State) : StepResult :=
  s.settle do
    let (_, slot) ← s.frameSlot a
    return (s.copyReg b slot.val slot.tag).advance

/-- MOVE_TO_STACK_FRAME: overwrite a local of the current frame (R160). -/
def execMoveToStackFrame (a b : Reg) (s : State) : StepResult :=
  s.settle do
    let (k, _) ← s.frameSlot a
    return (s.writeSlot k (s.reg b) (s.tag b)).advance

/-- PUSH_IP: push the index `ip + 1 + off`, tagged `RAW`, checked before the push (R155). -/
def execPushIp (imm24 : BitVec 24) (s : State) : StepResult :=
  s.settle do
    let t ← s.checkTarget (s.relTarget imm24)
    let s1 ← s.push (BitVec.ofNat 64 t) 0
    return s1.advance

/-- NEW_STACK_FRAME: save the frame register and open a frame at the new stack top (R156). -/
def execNewStackFrame (s : State) : StepResult :=
  s.settle do
    let s1 ← s.push (s.reg s.cfg.frameReg) (s.tag s.cfg.frameReg)
    return (s1.setReg s.cfg.frameReg (BitVec.ofNat 64 s1.stack.length) .raw).advance

/-- The linkage of the current frame: its base, the return index and the saved frame register; `BAD_FRAME` when the frame register names no frame the stack can hold (R151, R157). -/
def State.linkage (s : State) : Except Stop (Nat × Cell64 × Slot) :=
  if s.frameBase < 2 ∨ s.stack.length < s.frameBase then .error (.cause .badFrame)
  else
    match s.stack[s.frameBase - 2]?, s.stack[s.frameBase - 1]? with
    | some ret, some saved => .ok (s.frameBase, ret.val, saved)
    | _, _ => .error (.cause .badFrame)

/-- RETURN: restore the frame register, drop the saved base and every local, resume at the saved index (R157). -/
def execRet (s : State) : StepResult :=
  s.settle do
    let (base, ret, saved) ← s.linkage
    let t ← s.checkTarget ret.toNat
    return ((s.copyReg s.cfg.frameReg saved.val saved.tag).truncate (base - 1)).jumpTo t

end Sys2Proof.Machine
end

