-- ==== Sys2Proof/Machine/Dispatch.lean ====
section
/-! DEFINITION. One arm per instruction, each a direct call of its meaning (60_exceptions.md R166: `Execute`). -/

namespace Sys2Proof.Machine

def exec (i : Instr) (s : State) : Host.Outcome State Fault Refusal :=
  match i with
  | .halt => Sys2Proof.Machine.execHalt s
  | .move a b => Sys2Proof.Machine.execMove a b s
  | .constLow a imm16 => Sys2Proof.Machine.execConstLow a imm16 s
  | .constLowNegative a imm16 => Sys2Proof.Machine.execConstLowNegative a imm16 s
  | .constMidLow a imm16 => Sys2Proof.Machine.execConstMidLow a imm16 s
  | .constMidHigh a imm16 => Sys2Proof.Machine.execConstMidHigh a imm16 s
  | .constHigh a imm16 => Sys2Proof.Machine.execConstHigh a imm16 s
  | .push a => Sys2Proof.Machine.execPush a s
  | .pop a => Sys2Proof.Machine.execPop a s
  | .moveFromStackFrame a b => Sys2Proof.Machine.execMoveFromStackFrame a b s
  | .moveToStackFrame a b => Sys2Proof.Machine.execMoveToStackFrame a b s
  | .pushIp imm24 => Sys2Proof.Machine.execPushIp imm24 s
  | .newStackFrame => Sys2Proof.Machine.execNewStackFrame s
  | .ret => Sys2Proof.Machine.execRet s
  | .jump imm24 => Sys2Proof.Machine.execJump imm24 s
  | .jumpIf imm24 => Sys2Proof.Machine.execJumpIf imm24 s
  | .jumpAbs a => Sys2Proof.Machine.execJumpAbs a s
  | .jumpAbsIf a => Sys2Proof.Machine.execJumpAbsIf a s
  | .alloc a b => Sys2Proof.Machine.execAlloc a b s
  | .allocArray a b c => Sys2Proof.Machine.execAllocArray a b c s
  | .structLoad a b c => Sys2Proof.Machine.execStructLoad a b c s
  | .structStore a b c => Sys2Proof.Machine.execStructStore a b c s
  | .arrayLoad a b c => Sys2Proof.Machine.execArrayLoad a b c s
  | .arrayStore a b c => Sys2Proof.Machine.execArrayStore a b c s
  | .intAdd a b c => Sys2Proof.Machine.execIntAdd a b c s
  | .intSubtract a b c => Sys2Proof.Machine.execIntSubtract a b c s
  | .intMultiply a b c => Sys2Proof.Machine.execIntMultiply a b c s
  | .intDivide a b c => Sys2Proof.Machine.execIntDivide a b c s
  | .uintAdd a b c => Sys2Proof.Machine.execUintAdd a b c s
  | .uintSubtract a b c => Sys2Proof.Machine.execUintSubtract a b c s
  | .uintMultiply a b c => Sys2Proof.Machine.execUintMultiply a b c s
  | .uintDivide a b c => Sys2Proof.Machine.execUintDivide a b c s
  | .floatAdd a b c => Sys2Proof.Machine.execFloatAdd a b c s
  | .floatSubtract a b c => Sys2Proof.Machine.execFloatSubtract a b c s
  | .floatMultiply a b c => Sys2Proof.Machine.execFloatMultiply a b c s
  | .floatDivide a b c => Sys2Proof.Machine.execFloatDivide a b c s
  | .doubleAdd a b c => Sys2Proof.Machine.execDoubleAdd a b c s
  | .doubleSubtract a b c => Sys2Proof.Machine.execDoubleSubtract a b c s
  | .doubleMultiply a b c => Sys2Proof.Machine.execDoubleMultiply a b c s
  | .doubleDivide a b c => Sys2Proof.Machine.execDoubleDivide a b c s
  | .bitAnd a b c => Sys2Proof.Machine.execBitAnd a b c s
  | .bitOr a b c => Sys2Proof.Machine.execBitOr a b c s
  | .equal a b c => Sys2Proof.Machine.execEqual a b c s
  | .notEqual a b c => Sys2Proof.Machine.execNotEqual a b c s
  | .intLess a b c => Sys2Proof.Machine.execIntLess a b c s
  | .intLessEqual a b c => Sys2Proof.Machine.execIntLessEqual a b c s
  | .uintLess a b c => Sys2Proof.Machine.execUintLess a b c s
  | .uintLessEqual a b c => Sys2Proof.Machine.execUintLessEqual a b c s
  | .floatEqual a b c => Sys2Proof.Machine.execFloatEqual a b c s
  | .floatNotEqual a b c => Sys2Proof.Machine.execFloatNotEqual a b c s
  | .floatLess a b c => Sys2Proof.Machine.execFloatLess a b c s
  | .floatLessEqual a b c => Sys2Proof.Machine.execFloatLessEqual a b c s
  | .doubleEqual a b c => Sys2Proof.Machine.execDoubleEqual a b c s
  | .doubleNotEqual a b c => Sys2Proof.Machine.execDoubleNotEqual a b c s
  | .doubleLess a b c => Sys2Proof.Machine.execDoubleLess a b c s
  | .doubleLessEqual a b c => Sys2Proof.Machine.execDoubleLessEqual a b c s
  | .test a b => Sys2Proof.Machine.execTest a b s
  | .out a => Sys2Proof.Machine.execOut a s

end Sys2Proof.Machine
end

