-- ==== Sys2Proof/Machine/Step.lean ====
section
/-! DEFINITION. One step of the block: fetch, decode, execute (60_exceptions.md R166). -/

namespace Sys2Proof.Machine

/-- `Step` while `STATUS = RUNNING`; in any other status the block does nothing (60_exceptions.md R166, log 6). -/
def step (s : State) : Host.Outcome State Fault Refusal :=
  match s.status with
  | .running =>
    match s.fetch with
    | none => .next (s.takeRuntimeError .ipOutOfRange)
    | some w =>
      match decode w with
      | .illegal _ => .next (s.takeRuntimeError .illegalOpcode)
      | .instr i => exec i s
  | .idle => .next s
  | .halted => .next s
  | .runtimeError => .next s

/-- Code memory with word `w` at index `i`, filled up with HALT words (0) where it was shorter. -/
def placeWord (code : List Word) (i : Nat) (w : Word) : List Word :=
  if i < code.length then code.set i w else code ++ List.replicate (i - code.length) 0 ++ [w]

/-- The state with the word `w` loaded where the next step fetches, and the block running: it stands for the host's
code load and start, for which see log 5. -/
def State.withFetchWord (s : State) (nbits w : Nat) : State :=
  { s with
    code := placeWord s.code s.ip.toNat (BitVec.ofNat 32 (w % 2 ^ nbits))
    status := .running }

end Sys2Proof.Machine
end

