-- ==== Sys2Proof/Machine/Assembler.lean ====
section
/-! DEFINITION. The assembler's syntax and its two pseudo-instructions (30_encoding.md R84, R85): from one statement's
characters to the words the encoder appends. Labels come as a table of names and indices, since the spec gives no
syntax that defines one (log 17). -/

namespace Sys2Proof

/-! ## Mnemonics (30_encoding.md R80) -/

/-- The mnemonics and their opcodes. -/
def mnemonicTable : List (String × Nat) :=
  [
    ("HALT", 0x00), ("MOVE", 0x01), ("CONST_LOW", 0x02), ("CONST_LOW_NEGATIVE", 0x03), ("CONST_MID_LOW", 0x04),
    ("CONST_MID_HIGH", 0x05), ("CONST_HIGH", 0x06), ("PUSH", 0x07), ("POP", 0x08),
    ("MOVE_FROM_STACK_FRAME", 0x09), ("MOVE_TO_STACK_FRAME", 0x0A), ("PUSH_IP", 0x0B), ("NEW_STACK_FRAME", 0x0C),
    ("RETURN", 0x0D), ("JUMP", 0x0E), ("JUMP_IF", 0x0F), ("JUMP_ABS", 0x10), ("JUMP_ABS_IF", 0x11),
    ("ALLOC", 0x12), ("ALLOC_ARRAY", 0x13), ("STRUCT_LOAD", 0x14), ("STRUCT_STORE", 0x15), ("ARRAY_LOAD", 0x16),
    ("ARRAY_STORE", 0x17), ("INT_ADD", 0x18), ("INT_SUBTRACT", 0x19), ("INT_MULTIPLY", 0x1A),
    ("INT_DIVIDE", 0x1B), ("UINT_ADD", 0x1C), ("UINT_SUBTRACT", 0x1D), ("UINT_MULTIPLY", 0x1E),
    ("UINT_DIVIDE", 0x1F), ("FLOAT_ADD", 0x20), ("FLOAT_SUBTRACT", 0x21), ("FLOAT_MULTIPLY", 0x22),
    ("FLOAT_DIVIDE", 0x23), ("DOUBLE_ADD", 0x24), ("DOUBLE_SUBTRACT", 0x25), ("DOUBLE_MULTIPLY", 0x26),
    ("DOUBLE_DIVIDE", 0x27), ("AND", 0x28), ("OR", 0x29), ("EQUAL", 0x2A), ("NOT_EQUAL", 0x2B),
    ("INT_LESS", 0x2C), ("INT_LESS_EQUAL", 0x2D), ("UINT_LESS", 0x2E), ("UINT_LESS_EQUAL", 0x2F),
    ("FLOAT_EQUAL", 0x30), ("FLOAT_NOT_EQUAL", 0x31), ("FLOAT_LESS", 0x32), ("FLOAT_LESS_EQUAL", 0x33),
    ("DOUBLE_EQUAL", 0x34), ("DOUBLE_NOT_EQUAL", 0x35), ("DOUBLE_LESS", 0x36), ("DOUBLE_LESS_EQUAL", 0x37),
    ("TEST", 0x38), ("OUT", 0x39)
  ]

/-- The opcode of a mnemonic, written in capitals as R80 writes it (DESIGN CHOICE, log 17). -/
def opcodeOf (mnemonic : List Char) : Option Nat :=
  (mnemonicTable.find? (fun row => row.1.toList == mnemonic)).map (fun row => row.2)

/-! ## Numerals -/

/-- The value of a decimal digit. -/
def decDigit (ch : Char) : Option Nat :=
  if '0' ≤ ch ∧ ch ≤ '9' then some (ch.toNat - '0'.toNat) else none

/-- The value of a hexadecimal digit. -/
def hexDigit (ch : Char) : Option Nat :=
  if '0' ≤ ch ∧ ch ≤ '9' then some (ch.toNat - '0'.toNat)
  else if 'a' ≤ ch ∧ ch ≤ 'f' then some (ch.toNat - 'a'.toNat + 10)
  else if 'A' ≤ ch ∧ ch ≤ 'F' then some (ch.toNat - 'A'.toNat + 10)
  else none

/-- The numeral of digits in a base, continued from `acc`. -/
def numeralFrom (digit : Char → Option Nat) (base : Nat) : Nat → List Char → Option Nat
  | acc, [] => some acc
  | acc, ch :: rest =>
    match digit ch with
    | some d => numeralFrom digit base (acc * base + d) rest
    | none => none

/-- A nonempty numeral. -/
def numeral (digit : Char → Option Nat) (base : Nat) (text : List Char) : Option Nat :=
  if text.isEmpty then none else numeralFrom digit base 0 text

/-- A register operand: `R` in either case, then its number (30_encoding.md R84). -/
def parseReg : List Char → Option Int
  | 'R' :: digits => (numeral decDigit 10 digits).map Int.ofNat
  | 'r' :: digits => (numeral decDigit 10 digits).map Int.ofNat
  | _ => none

/-- An immediate operand: decimal with an optional `-`, or `0x` hex (30_encoding.md R84). DESIGN CHOICE, log 17: no
digit separator `_`, which 00_scope.md R9 names for hex literals and R84 does not; hex digits in either case after a
small `x`, and no `-` before them. -/
def parseImm : List Char → Option Int
  | '-' :: digits => (numeral decDigit 10 digits).map (fun n => -(n : Int))
  | '0' :: 'x' :: digits => (numeral hexDigit 16 digits).map Int.ofNat
  | digits => (numeral decDigit 10 digits).map Int.ofNat

/-- A table of labels and the instruction indices they name. -/
abbrev Labels := List (List Char × Nat)

/-- The index a label names. -/
def Labels.find (labels : Labels) (name : List Char) : Option Nat :=
  (List.find? (fun row => row.1 == name) labels).map (fun row => row.2)

/-- A signed offset: an immediate, or a decimal numeral after a `+`. DESIGN CHOICE, log 17: 30_encoding.md R84 says
"signed offset" and names only an optional `-`, while 44_control.md R146 and 95_test_vectors.md write `JUMP +3`. -/
def parseOffset : List Char → Option Int
  | '+' :: digits => (numeral decDigit 10 digits).map Int.ofNat
  | text => parseImm text

/-- A `J` operand of the instruction at `thisIndex`: a signed offset, or a label (30_encoding.md R84). The sign `+`
and what a label looks like are the model's choice, log 17. -/
def parseTarget (labels : Labels) (thisIndex : Nat) (text : List Char) : Option Int :=
  match parseOffset text with
  | some v => some v
  | none => (labels.find text).map (fun labelIndex => labelOffset labelIndex thisIndex)

/-- The operands of a format, in field order (30_encoding.md R84). -/
def parseOperands (labels : Labels) (thisIndex : Nat) : Format → List (List Char) → Option (List Int)
  | .n, [] => some []
  | .a, [a] => do return [← parseReg a]
  | .ab, [a, b] => do return [← parseReg a, ← parseReg b]
  | .abc, [a, b, c] => do return [← parseReg a, ← parseReg b, ← parseReg c]
  | .ai, [a, v] => do return [← parseReg a, ← parseImm v]
  | .j, [v] => do return [← parseTarget labels thisIndex v]
  | _, _ => none

/-! ## Statements -/

/-- The text without blanks at its two ends. -/
def trimBlanks (text : List Char) : List Char :=
  ((text.dropWhile (· == ' ')).reverse.dropWhile (· == ' ')).reverse

/-- The text cut at every occurrence of a separator. -/
def splitAtChar (sep : Char) : List Char → List (List Char)
  | [] => [[]]
  | ch :: rest =>
    if ch = sep then [] :: splitAtChar sep rest
    else
      match splitAtChar sep rest with
      | piece :: pieces => (ch :: piece) :: pieces
      | [] => [[ch]]

/-- A statement's mnemonic and operand texts. That the space is the only blank is DESIGN CHOICE, log 17. -/
def statementParts (text : List Char) : List Char × List (List Char) :=
  let body := trimBlanks text
  let rest := trimBlanks (body.dropWhile (· != ' '))
  (body.takeWhile (· != ' '), if rest.isEmpty then [] else (splitAtChar ',' rest).map trimBlanks)

/-- The operand of `LI64`: a 64-bit value, written like an immediate (30_encoding.md R85). DESIGN CHOICE, log 17: R85
gives no range, and the numerals taken are −2^63 to 2^64 − 1, negative ones as two's complement; every other numeral
is refused. -/
def parseCell (text : List Char) : Option Cell64 :=
  match parseImm text with
  | some v => if -(2 ^ 63) ≤ v ∧ v < 2 ^ 64 then some (BitVec.ofInt 64 v) else none
  | none => none

/-- The words of one statement at index `thisIndex`: an instruction, or a pseudo-instruction's expansion
(30_encoding.md R82, R84, R85). None when the statement is refused. That an empty statement is refused, and that CALL
also takes an offset, is DESIGN CHOICE, log 17. -/
def assembleStatement (labels : Labels) (thisIndex : Nat) (text : List Char) : Option (List Word) :=
  match statementParts text with
  | (mnemonic, operands) =>
    if mnemonic = "LI64".toList then
      match operands with
      | [a, v] =>
        match parseReg a, parseCell v with
        | some r, some cell =>
          if regOperandOk r then some ((pseudoLI64 (BitVec.ofInt 8 r) cell).map encode) else none
        | _, _ => none
      | _ => none
    else if mnemonic = "CALL".toList then
      match operands with
      | [label] =>
        match parseTarget labels (thisIndex + 2) label with
        | some off => if off24OperandOk off then some ((pseudoCall (BitVec.ofInt 24 off)).map encode) else none
        | none => none
      | _ => none
    else
      match opcodeOf mnemonic with
      | none => none
      | some op =>
        match formatOf op with
        | none => none
        | some f =>
          match parseOperands labels thisIndex f operands with
          | some vs => (encodeAsm { opcode := op, operands := vs }).map (fun w => [w])
          | none => none

/-- The words of statements that follow one another from index `start` (30_encoding.md R84: `;` separates them). -/
def assembleFrom (labels : Labels) : Nat → List (List Char) → Option (List Word)
  | _, [] => some []
  | start, text :: rest =>
    match assembleStatement labels start text with
    | none => none
    | some ws =>
      match assembleFrom labels (start + ws.length) rest with
      | none => none
      | some more => some (ws ++ more)

/-- The words of one line of assembly that begins at index 0. -/
def assembleLine (labels : Labels) (line : String) : Option (List Word) :=
  assembleFrom labels 0 (splitAtChar ';' line.toList)

end Sys2Proof
end

