-- ==== Sys2Proof/Machine/HostPort.lean ====
section
/-! DEFINITION. The block's host side (10_state.md R17): loads, start, status, result, the rendering of an output
record (R18), and the free port of the allocator (20_memory.md R63, R66). None of these is a step of a run (log 16). -/

namespace Sys2Proof.Machine

/-! ## Requests (10_state.md R17(a) to (d)) -/

/-- A request of the host. -/
inductive HostRequest where
  /-- (a) code load: the words, and with them `CODE_SIZE`. -/
  | loadCode (words : List Word)
  /-- (b) line-table load. -/
  | loadLineTable (runs : List LineRun)
  /-- (c) metadata load. -/
  | loadMetadata (types : List TypeMeta)
  /-- (d) start of a run. -/
  | start
deriving DecidableEq, Repr

/-- The atomic action of an accepted start (70_reset_and_hazards.md R177). Slab bytes, code, line table and metadata
are kept. -/
def State.start (s : State) : State :=
  { ((s.clearRegs.setFlag false).truncate 0) with
    ip := 0
    tree := .leaf s.cfg.slabExp s.cfg.slabBase false
    pool := s.cfg.nodeCap - 1
    cause := 0
    faultIp := 0
    faultLine := noLine
    out := []
    diag := []
    status := .running }

/-- What the block does with a host request: refused while a run is in progress (70_reset_and_hazards.md R182), and
where a load exceeds what its port can hold (log 11). -/
def hostRequest (r : HostRequest) (s : State) : StepResult :=
  if s.status = .running then .refused .portBusy
  else
    match r with
    | .loadCode words => if words.length ≤ s.cfg.codeCap then .next { s with code := words } else .refused .loadTooLarge
    | .loadLineTable runs => .next { s with lineTable := runs }
    | .loadMetadata types => if types.length ≤ 2 ^ 32 then .next { s with metadata := types } else .refused .loadTooLarge
    | .start => .next s.start

/-! ## Status and result (10_state.md R17(e), (f), R33) -/

/-- The 2-bit encoding of `STATUS`. -/
def Status.code : Status → BitVec 2
  | .idle => 0
  | .running => 1
  | .halted => 2
  | .runtimeError => 3

/-- The status port: `STATUS`, `CAUSE`, `FAULT_IP`, `FAULT_LINE`. -/
def State.statusPort (s : State) : BitVec 2 × BitVec 8 × Index × Cell64 :=
  (s.status.code, s.cause, s.faultIp, s.faultLine)

/-- The result port: what it presents once `STATUS` has left `RUNNING`. -/
def State.resultPort (s : State) : Option RunResult :=
  match s.status with
  | .halted => some .ok
  | .runtimeError => some .runtimeError
  | .idle => none
  | .running => none

/-! ## Rendering (10_state.md R18) -/

/-- The text of an output record, with its newline. The text of a float is `FLOAT_TEXT`, which is free (log 13). -/
def OutRecord.text (r : OutRecord) : String :=
  (match r.kind with
    | .signed => toString r.bits.toInt
    | .unsigned => toString r.bits.toNat
    | .float => Config.floatText32 (r.bits.extractLsb' 0 32)
    | .double => Config.floatText64 r.bits) ++ "\n"

/-! ## The free port of the allocator (20_memory.md R63, R66) -/

/-- `Free(a, k)` on the state; no instruction but HALT, through `FreeAll`, calls it. -/
def State.free (s : State) (a k : Nat) : Except Cause State :=
  match freeBlock s.cfg s.tree s.pool a k with
  | .ok (tree, pool) => .ok { s with tree := tree, pool := pool }
  | .error f => .error f

end Sys2Proof.Machine
end

