-- ==== Sys2Proof/Safety.lean ====
section
/-! DEFINITION. The terms claims use: the machine's invariant, what an instruction leaves unchanged, what it writes,
the errors of a rule in order, and what correct rounding is. -/

namespace Sys2Proof.Machine

/-! ## The invariant -/

/-- Bits 4:0 of a tag are the code of one of the six tag kinds, `RAW`, `PTR`, `SIGNED`, `FLOAT`, `DOUBLE`, `ARRAYPTR`
(10_state.md R25). -/
def LegalTag (t : Tag) : Prop := t.extractLsb' 0 5 ∈ [0b00000#5, 0b00001, 0b00010, 0b00100, 0b01000, 0b10001]

/-- The reserved bits 7:5 of a tag (10_state.md R24). -/
def reservedBits (t : Tag) : BitVec 3 := t.extractLsb' 5 3

/-- `P = { k | k < S.size and S.tag[k][0] = 1 }`, the list strictly rising (10_state.md R35). -/
structure PointerIndexExact (stack : List Slot) (p : List Nat) : Prop where
  rising : p.Pairwise (· < ·)
  exact  : ∀ k, k ∈ p ↔ ∃ slot, stack[k]? = some slot ∧ slot.tag.getLsbD 0 = true

/-- What the status registers and the diagnostic stream say together: after a runtime error exactly one record and a
nonzero cause, otherwise the start values (10_state.md R19, R33; 60_exceptions.md R167; 46_halt_output.md R163). -/
structure ReportExact (s : State) : Prop where
  atError  : s.status = .runtimeError →
    (1 ≤ s.cause.toNat ∧ s.cause.toNat ≤ 19) ∧ s.faultIp = s.ip ∧
      s.diag = [{ cause := s.cause, faultIp := s.faultIp, line := s.faultLine }]
  elsewhere : s.status ≠ .runtimeError → s.cause = 0 ∧ s.faultIp = 0 ∧ s.faultLine = -1 ∧ s.diag = []

/-- The machine's invariant: every state that reset and host requests make has it, and every step keeps it. -/
structure State.Inv (s : State) : Prop where
  /-- The parameters are legal (00_scope.md R7). -/
  cfg_legal  : s.cfg.Legal
  /-- `CODE_SIZE ≤ CODE_CAP` (10_state.md R17(a)). -/
  code_fits  : s.code.length ≤ s.cfg.codeCap
  /-- `ip ≤ CODE_CAP` (10_state.md R32). -/
  ip_fits    : s.ip.toNat ≤ s.cfg.codeCap
  /-- `S.size ≤ STACK_CAP` (10_state.md R34). -/
  stack_fits : s.stack.length ≤ s.cfg.stackCap
  /-- Register tags hold a kind (10_state.md R25). -/
  reg_tags   : ∀ r, LegalTag (s.tag r)
  /-- Slot tags hold a kind, reserved bits 0 (10_state.md R25, R36). -/
  slot_tags  : ∀ slot ∈ s.stack, LegalTag slot.tag ∧ reservedBits slot.tag = 0
  /-- The pointer-slot index is exact (10_state.md R35). -/
  pointers   : PointerIndexExact s.stack s.pointerSlots
  /-- The memory is in canonical form (log 2). -/
  slab_wf    : s.slab.wf
  /-- Every written byte lies in the slab (20_memory.md R45). -/
  slab_in    : ∀ c ∈ s.slab.cells, inSlab s.cfg c.1 1
  /-- The allocator invariant (20_memory.md R58). -/
  allocator  : AllocatorInv s.cfg s.tree s.pool
  /-- The status registers agree with the diagnostic stream. -/
  report     : ReportExact s

/-! ## The spec's tables of codes -/

/-- The codes of the tag kinds (10_state.md R25). -/
def TagCodes : Prop :=
  TagKind.raw.code = 0b00000 ∧ TagKind.ptr.code = 0b00001 ∧ TagKind.signed.code = 0b00010 ∧
    TagKind.float.code = 0b00100 ∧ TagKind.double.code = 0b01000 ∧ TagKind.arrayPtr.code = 0b10001

/-- One row of the table of primitive kinds: code, size in bytes, whether a load sign-extends, the tag kind it
writes. -/
def PrimKind.Row (k : PrimKind) (code : BitVec 8) (size : Nat) (sign : Bool) (tag : TagKind) : Prop :=
  k.code = code ∧ k.size = size ∧ k.signExtends = sign ∧ k.tagKind = tag

/-- The table of primitive kinds (20_memory.md R55). -/
def FieldKinds : Prop :=
  PrimKind.bool.Row 0 1 false .raw ∧ PrimKind.i8.Row 1 1 true .signed ∧ PrimKind.i16.Row 2 2 true .signed ∧
    PrimKind.i32.Row 3 4 true .signed ∧ PrimKind.i64.Row 4 8 false .signed ∧ PrimKind.u8.Row 5 1 false .raw ∧
    PrimKind.u16.Row 6 2 false .raw ∧ PrimKind.u32.Row 7 4 false .raw ∧ PrimKind.u64.Row 8 8 false .raw ∧
    PrimKind.f32.Row 9 4 false .float ∧ PrimKind.f64.Row 10 8 false .double ∧
    PrimKind.structRef.Row 11 8 false .ptr ∧ PrimKind.arrayRef.Row 12 8 false .arrayPtr

/-- The encodings of `STATUS` (10_state.md R33). -/
def StatusCodes : Prop :=
  Status.idle.code = 0 ∧ Status.running.code = 1 ∧ Status.halted.code = 2 ∧ Status.runtimeError.code = 3

/-- One row of the table of causes: code and message. -/
def Cause.Row (c : Cause) (code : BitVec 8) (message : String) : Prop := c.code = code ∧ c.message = message

/-- The table of causes (60_exceptions.md R164). -/
def CauseCodes : Prop :=
  Cause.illegalOpcode.Row 1 "illegal opcode" ∧
    Cause.ipOutOfRange.Row 2 "instruction pointer out of range" ∧
    Cause.jumpOutOfRange.Row 3 "jump target out of range" ∧
    Cause.notAPointer.Row 4 "register not a memory address" ∧
    Cause.notAnArray.Row 5 "pointer held in register is not an array" ∧
    Cause.arrayIndexOutOfBounds.Row 6 "array index out of bounds" ∧
    Cause.addressOutOfRange.Row 7 "address outside the heap" ∧
    Cause.unknownType.Row 8 "unknown type" ∧
    Cause.unknownField.Row 9 "unknown field" ∧
    Cause.invalidArraySpan.Row 10 "invalid array element span" ∧
    Cause.outOfMemory.Row 11 "out of memory" ∧
    Cause.stackOverflow.Row 12 "stack overflow" ∧
    Cause.stackUnderflow.Row 13 "stack underflow" ∧
    Cause.stackFrameOutOfBounds.Row 14 "stack frame access out of bounds" ∧
    Cause.badFrame.Row 15 "no frame to return from" ∧
    Cause.divideByZero.Row 16 "division by zero" ∧
    Cause.allocWrongLevel.Row 17 "freed at the wrong tree level" ∧
    Cause.allocAddressOutOfNode.Row 18 "memory returned to the wrong node" ∧
    Cause.allocInvalidFree.Row 19 "invalid free"

/-! ## Frames -/

/-- The parts of the state a frame speaks of, beside the registers and the instruction pointer. -/
inductive Part where
  /-- the comparison flag -/
  | flag
  /-- the value stack and the pointer-slot index -/
  | stack
  /-- the bytes of the heap slab -/
  | heap
  /-- the allocator tree and the free-node pool -/
  | allocator
  /-- the output stream -/
  | out
  /-- `STATUS`, `CAUSE`, `FAULT_IP`, `FAULT_LINE` and the diagnostic stream -/
  | report
deriving DecidableEq, Repr

/-- `t` differs from `s` in nothing but the instruction pointer, the registers listed and the parts listed. Nothing
changes the parameters, the code, the line table or the metadata. -/
structure SameBut (s t : State) (regs : List Reg) (parts : List Part) : Prop where
  loaded    : t.cfg = s.cfg ∧ t.code = s.code ∧ t.lineTable = s.lineTable ∧ t.metadata = s.metadata
  registers : ∀ r, r ∉ regs → t.reg r = s.reg r ∧ t.tag r = s.tag r
  flag      : Part.flag ∉ parts → t.flag = s.flag
  stack     : Part.stack ∉ parts → t.stack = s.stack ∧ t.pointerSlots = s.pointerSlots
  heap      : Part.heap ∉ parts → ∀ a, t.slab.byte a = s.slab.byte a
  allocator : Part.allocator ∉ parts → t.tree = s.tree ∧ t.pool = s.pool
  out       : Part.out ∉ parts → t.out = s.out
  report    : Part.report ∉ parts →
    t.status = s.status ∧ t.cause = s.cause ∧ t.faultIp = s.faultIp ∧ t.faultLine = s.faultLine ∧ t.diag = s.diag

/-- Bits 4:0 of the tag of register c are the kind's code and its reserved bits are those it had (10_state.md R26). -/
def TaggedAs (s t : State) (c : Reg) (kind : TagKind) : Prop :=
  (t.tag c).extractLsb' 0 5 = kind.code ∧ reservedBits (t.tag c) = reservedBits (s.tag c)

/-- The instruction writes `v` with a kind to register c, goes to the next instruction, and changes nothing else. -/
structure WritesReg (s t : State) (c : Reg) (v : Cell64) (kind : TagKind) : Prop where
  value : t.reg c = v
  tag   : TaggedAs s t c kind
  next  : t.ip = s.ip + 1
  frame : SameBut s t [c] []

/-- The instruction writes a boolean to register c and to the flag, goes to the next instruction, and changes nothing
else (43_compare.md R124). -/
structure WritesBool (s t : State) (c : Reg) (b : Bool) : Prop where
  value : t.reg c = if b then 1 else 0
  tag   : TaggedAs s t c .raw
  flag  : t.flag = b
  next  : t.ip = s.ip + 1
  frame : SameBut s t [c] [.flag]

/-- The opcode and format that the rule of an instruction names (30_encoding.md R80). -/
def EncodedAs (i : Instr) (opcode : BitVec 8) (format : Format) : Prop := i.opcode = opcode ∧ i.format = format

/-- The n bytes from address `a` hold the low bytes of `v`, least significant first, and every other byte is as
before (20_memory.md R47). -/
def StoresBytes (s t : State) (a n : Nat) (v : Cell64) : Prop :=
  (∀ j, j < n → t.slab.byte (a + j) = v.extractLsb' (8 * j) 8) ∧
    (∀ x, x < a ∨ a + n ≤ x → t.slab.byte x = s.slab.byte x)

/-- `v` is the n bytes from address `a`, least significant first, extended to 64 bits by its own top bit when `sign`,
else by zeros (20_memory.md R46, R55). -/
def LoadsBytes (s : State) (a n : Nat) (sign : Bool) (v : Cell64) : Prop :=
  (∀ j, j < n → v.extractLsb' (8 * j) 8 = s.slab.byte (a + j)) ∧
    ∀ i, 8 * n ≤ i → i < 64 → v.getLsbD i = (sign && v.getLsbD (8 * n - 1))

/-! ## The first error of a rule's list, none when every check passes (60_exceptions.md R168) -/

/-- The errors of STRUCT_LOAD and STRUCT_STORE, in order (41_heap.md R98, R99). -/
def State.fieldError (s : State) (a b : Reg) : Option Cause :=
  if (s.tag a).getLsbD 0 = false then some .notAPointer
  else
    match s.metadata[((s.reg b).extractLsb' 32 32).toNat]? with
    | none => some .unknownType
    | some t =>
      match t.fields[((s.reg b).extractLsb' 0 32).toNat]? with
      | none => some .unknownField
      | some f =>
        if inSlab s.cfg ((s.reg a).toNat + f.offset.toNat) f.kind.size then none else some .addressOutOfRange

/-- The element count an array's header holds (41_heap.md R95). -/
def State.arrayCount (s : State) (a : Reg) : Nat := s.slab.readLE (s.reg a).toNat 8

/-- The span an array's header holds (41_heap.md R95). -/
def State.arraySpan (s : State) (a : Reg) : Nat := s.slab.readLE ((s.reg a).toNat + 8) 8

/-- The address of the element that register B indexes (41_heap.md R95). -/
def State.elementAddr (s : State) (a b : Reg) : Nat := (s.reg a).toNat + 16 + (s.reg b).toNat * s.arraySpan a

/-- The errors of ARRAY_LOAD and ARRAY_STORE, in order (41_heap.md R100, R101). -/
def State.arrayError (s : State) (a b : Reg) : Option Cause :=
  if (s.tag a).getLsbD 0 = false then some .notAPointer
  else if (s.tag a).getLsbD 4 = false then some .notAnArray
  else if ¬ (inSlab s.cfg (s.reg a).toNat 8 ∧ inSlab s.cfg ((s.reg a).toNat + 8) 8) then some .addressOutOfRange
  else if s.arraySpan a ∉ [1, 2, 4, 8] then some .invalidArraySpan
  else if s.arrayCount a ≤ (s.reg b).toNat then some .arrayIndexOutOfBounds
  else if ¬ inSlab s.cfg (s.elementAddr a b) (s.arraySpan a) then some .addressOutOfRange
  else none

/-! ## The allocator -/

/-- `a` is the lowest address of a free leaf of exponent at least `k`: where a depth-first, left-first walk first
meets one (20_memory.md R61). -/
def LowestFree (tree : Node) (k a : Nat) : Prop :=
  (∃ e, (a, e, false) ∈ tree.leaves ∧ k ≤ e) ∧ ∀ b e, (b, e, false) ∈ tree.leaves → k ≤ e → a ≤ b

/-- The leaves follow one another without gap or overlap from `lo` to `hi` (20_memory.md R58 (b)). -/
def Tiles : List (Nat × Nat × Bool) → Nat → Nat → Prop
  | [], lo, hi => lo = hi
  | (a, e, _) :: rest, lo, hi => a = lo ∧ Tiles rest (lo + 2 ^ e) hi

/-! ## Reset, start, and what a program can see -/

/-- The values of 10_state.md R42 that hold both after reset and at the beginning of every run. -/
structure StartValues (t : State) : Prop where
  registers : ∀ r, t.reg r = 0 ∧ t.tag r = 0
  flag      : t.flag = false
  ip        : t.ip = 0
  stack     : t.stack = [] ∧ t.pointerSlots = []
  tree      : t.tree = .leaf t.cfg.slabExp t.cfg.slabBase false
  pool      : t.pool = t.cfg.nodeCap - 1
  cause     : t.cause = 0
  faultIp   : t.faultIp = 0
  faultLine : t.faultLine = -1

/-- The two states agree on everything that an instruction may read: all but the pointer-slot index, the line table,
`CAUSE`, `FAULT_IP`, `FAULT_LINE` and the streams (10_state.md R21, R33, R35). -/
structure SameToProgram (s t : State) : Prop where
  cfg      : s.cfg = t.cfg
  code     : s.code = t.code
  metadata : s.metadata = t.metadata
  ip       : s.ip = t.ip
  regs     : s.regs = t.regs
  tags     : s.tags = t.tags
  flag     : s.flag = t.flag
  stack    : s.stack = t.stack
  slab     : s.slab = t.slab
  tree     : s.tree = t.tree
  pool     : s.pool = t.pool
  status   : s.status = t.status

/-! ## What an encoder was handed -/

/-- The word's operand fields, where 30_encoding.md R73 and R74 place them, carry these values in full, in the format's
order (R82). -/
def CarriesOperands : Format → List Int → Word → Prop
  | .n, [], _ => True
  | .a, [a], w => ((w.extractLsb' 16 8).toNat : Int) = a
  | .ab, [a, b], w => ((w.extractLsb' 16 8).toNat : Int) = a ∧ ((w.extractLsb' 8 8).toNat : Int) = b
  | .abc, [a, b, c], w =>
    ((w.extractLsb' 16 8).toNat : Int) = a ∧ ((w.extractLsb' 8 8).toNat : Int) = b ∧
      ((w.extractLsb' 0 8).toNat : Int) = c
  | .ai, [a, v], w =>
    ((w.extractLsb' 16 8).toNat : Int) = a ∧
      (((w.extractLsb' 0 16).toNat : Int) = v ∨ (v < 0 ∧ (w.extractLsb' 0 16).toInt = v))
  | .j, [v], w => (w.extractLsb' 0 24).toInt = v
  | _, _, _ => False

/-! ## Floating point -/

/-- A choice of the bits of binary32 NaN results: it depends on the opcode and the operand bits alone and always
answers a NaN (42_arithmetic.md R104, `NAN_RESULT`). -/
def NaNChoice32 (choose : BitVec 8 → BitVec 32 → BitVec 32 → BitVec 32) : Prop := ∀ op a b, f32 (choose op a b) = .nan

/-- A choice of the bits of binary64 NaN results (42_arithmetic.md R104, `NAN_RESULT`). -/
def NaNChoice64 (choose : BitVec 8 → BitVec 64 → BitVec 64 → BitVec 64) : Prop := ∀ op a b, f64 (choose op a b) = .nan

/-- The bits of a binary32 result: the pattern the operation gives, or the NaN chosen (42_arithmetic.md R104). -/
def resultBits32 (choose : BitVec 8 → BitVec 32 → BitVec 32 → BitVec 32)
    (operation : FloatVal → FloatVal → Option Nat) (op : BitVec 8) (a b : BitVec 32) : BitVec 32 :=
  ((operation (f32 a) (f32 b)).map (BitVec.ofNat 32)).getD (choose op a b)

/-- The bits of a binary64 result: the pattern the operation gives, or the NaN chosen (42_arithmetic.md R104). -/
def resultBits64 (choose : BitVec 8 → BitVec 64 → BitVec 64 → BitVec 64)
    (operation : FloatVal → FloatVal → Option Nat) (op : BitVec 8) (a b : BitVec 64) : BitVec 64 :=
  ((operation (f64 a) (f64 b)).map (BitVec.ofNat 64)).getD (choose op a b)

/-- The magnitude of a finite pattern, in smallest subnormals. -/
def FloatFormat.magOf (F : FloatFormat) (pattern : Nat) : Nat :=
  match F.unpack pattern with
  | .finite _ mag => mag
  | .inf _ => 0
  | .nan => 0

/-- How far the magnitude of a pattern is from `num / den`, times `den`. -/
def FloatFormat.distance (F : FloatFormat) (pattern num den : Nat) : Nat :=
  ((F.magOf pattern * den : Int) - (num : Int)).natAbs

/-- Rounding to the format is to nearest, ties to even, and to infinity exactly from half a unit in the last place
above the largest finite number on (00_scope.md R11, 42_arithmetic.md R104). -/
structure FloatFormat.RoundsToNearestEven (F : FloatFormat) : Prop where
  nearest  : ∀ num den m, 0 < den → F.roundMag num den < F.infBits → m < F.infBits →
    F.distance (F.roundMag num den) num den ≤ F.distance m num den
  tiesEven : ∀ num den m, 0 < den → F.roundMag num den < F.infBits → m < F.infBits → m ≠ F.roundMag num den →
    F.distance (F.roundMag num den) num den = F.distance m num den → F.roundMag num den % 2 = 0
  overflow : ∀ num den, 0 < den →
    (F.roundMag num den = F.infBits ↔
      (2 * F.magOf (F.infBits - 1) + 2 ^ (F.maxExpField - 2)) * den ≤ 2 * num)

/-- The pattern `r` is the exact number `num / den` (in smallest subnormals) rounded to the format: never a NaN; if
finite, no finite pattern is nearer, and one that is equally near and has another value leaves `r` even; an infinity
of the number's sign exactly from half a unit in the last place above the largest finite number on
(00_scope.md R11, 42_arithmetic.md R104). -/
structure FloatFormat.CorrectlyRounded (F : FloatFormat) (num : Int) (den : Nat) (r : Nat) : Prop where
  number   : F.unpack r ≠ .nan
  nearest  : ∀ n z, F.unpack r = .finite n z → ∀ p n' z', F.unpack p = .finite n' z' →
    (signedMag n z * den - num).natAbs ≤ (signedMag n' z' * den - num).natAbs
  tiesEven : ∀ n z, F.unpack r = .finite n z → ∀ p n' z', F.unpack p = .finite n' z' →
    signedMag n z ≠ signedMag n' z' →
      (signedMag n z * den - num).natAbs = (signedMag n' z' * den - num).natAbs → r % 2 = 0
  overflow : (∃ n, F.unpack r = .inf n) ↔
    (2 * F.magOf (F.infBits - 1) + 2 ^ (F.maxExpField - 2)) * den ≤ 2 * num.natAbs
  sign     : ∀ n, F.unpack r = .inf n → (n = true ↔ num < 0)

/-- Where a value stands in the order of the extended reals, none for a NaN: −∞, the finite numbers, +∞; both zeros
stand at one place (43_compare.md R126). -/
def FloatVal.place : FloatVal → Option (Int × Int)
  | .nan => none
  | .inf neg => some (if neg then -1 else 1, 0)
  | .finite neg mag => some (0, signedMag neg mag)

/-- Quiet equality: false on a NaN (43_compare.md R126). -/
def QuietEqual (x y : FloatVal) : Prop := ∃ p, x.place = some p ∧ y.place = some p

/-- Quiet less-than: false on a NaN (43_compare.md R126). -/
def QuietLess (x y : FloatVal) : Prop :=
  ∃ p q, x.place = some p ∧ y.place = some q ∧ (p.1 < q.1 ∨ (p.1 = q.1 ∧ p.2 < q.2))

end Sys2Proof.Machine
end

