-- ==== Sys2Proof/Certificates/Slice0/Obligations.lean ====
section
/-! DEFINITION. The statements for the provers, from the numbered rules of spec/. -/

open Sys2Proof Sys2Proof.Machine

/-! ## Encoding (30_encoding.md) -/

/-- Decoding the word of any instruction gives the instruction back: no operand bit is dropped (R74, R79, R80). -/
def Obligations.DecodeOfEncode : Prop := ∀ i : Instr, decode (encode i) = .instr i

/-- R75: the decoder ignores padding, the bits of a format that R73 and R74 give to no field, and the encoder writes it
as 0. -/
def Obligations.PaddingIgnored : Prop :=
  (Format.n.mask = 0xFF000000 ∧ Format.a.mask = 0xFFFF0000 ∧ Format.ab.mask = 0xFFFFFF00 ∧
    Format.abc.mask = 0xFFFFFFFF ∧ Format.ai.mask = 0xFFFFFFFF ∧ Format.j.mask = 0xFFFFFFFF) ∧
  ∀ (w : Word) (i : Instr), decode w = .instr i →
    (∀ w' : Word, w' &&& i.format.mask = w &&& i.format.mask → decode w' = .instr i) ∧
      encode i = w &&& i.format.mask

/-- R81: the opcodes 0x3A to 0xFF, and no others, are illegal, and executing one is a runtime error that changes
nothing else. -/
def Obligations.IllegalOpcodesRefused : Prop :=
  (∀ w : Word, (w.extractLsb' 24 8).toNat < 0x3A → ∃ i, decode w = .instr i ∧ i.opcode = w.extractLsb' 24 8) ∧
    ∀ w : Word, 0x3A ≤ (w.extractLsb' 24 8).toNat →
      decode w = .illegal (w.extractLsb' 24 8) ∧
        ∀ s : State, s.status = .running → s.code[s.ip.toNat]? = some w →
          ∃ t, step s = .next t ∧ t.status = .runtimeError ∧ t.cause = 1 ∧ t.ip = s.ip ∧ SameBut s t [] [.report]

/-- R82: the encoder answers a word exactly when the opcode is defined and the word carries every operand in full,
padding 0; every other input is refused, never truncated. The format it packs by is the one of the instruction with
that opcode (R80). -/
def Obligations.EncoderContract : Prop :=
  (∀ i : Instr, formatOf i.opcode.toNat = some i.format) ∧ ∀ (x : AsmInstr) (w : Word), encodeAsm x = some w ↔
    ∃ f, formatOf x.opcode = some f ∧ x.opcode ≤ 0x39 ∧ (w.extractLsb' 24 8).toNat = x.opcode ∧
      w &&& f.mask = w ∧ CarriesOperands f x.operands w

/-- Words written out in the rules decode to the instructions they stand for (one of each format). -/
def Obligations.SampleWordsDecode : Prop :=
  decode 0x00000000 = .instr .halt ∧ decode 0x02000005 = .instr (.constLow 0 5) ∧
    decode 0x0305FFFB = .instr (.constLowNegative 5 0xFFFB) ∧ decode 0x08010000 = .instr (.pop 1) ∧
    decode 0x090A0B00 = .instr (.moveFromStackFrame 10 11) ∧ decode 0x0EFFFFFF = .instr (.jump 0xFFFFFF) ∧
    decode 0x13000102 = .instr (.allocArray 0 1 2) ∧ decode 0x18000102 = .instr (.intAdd 0 1 2) ∧
    decode 0x38000100 = .instr (.test 0 1) ∧ decode 0x39020000 = .instr (.out 2) ∧
    decode 0x3A000000 = .illegal 0x3A

/-- R78: the 24-bit immediate is two's complement, extended by testing bit 23 and or-ing in 0xFF000000; the offset
is not scaled and the target is an exact integer. -/
def Obligations.JumpOffsetIsTwosComplement : Prop :=
  ∀ imm24 : BitVec 24,
    offset24 imm24 =
        (if imm24.getLsbD 23 then imm24.setWidth 32 ||| 0xFF000000#32 else imm24.setWidth 32 : BitVec 32).toInt ∧
      offset24 imm24 = imm24.toInt ∧ -(2 ^ 23) ≤ offset24 imm24 ∧ offset24 imm24 ≤ 2 ^ 23 - 1 ∧
      ∀ s : State, s.relTarget imm24 = (s.ip.toNat : Int) + 1 + imm24.toInt

/-! ## The step machine (60_exceptions.md, 70_reset_and_hazards.md) -/

/-- R166: outside RUNNING a step does nothing; otherwise it fetches, decodes and executes, or takes the error of the
fetch or of the decoder. That doing nothing is a next state equal to the state is the model's reading (log 6). -/
def Obligations.StepFetchesDecodesExecutes : Prop :=
  ∀ s : State,
    (s.status ≠ .running → step s = .next s) ∧
    (s.status = .running → s.code.length ≤ s.ip.toNat → step s = .next (s.takeRuntimeError .ipOutOfRange)) ∧
    ∀ w : Word, s.status = .running → s.code[s.ip.toNat]? = some w →
      (∀ op, decode w = .illegal op → step s = .next (s.takeRuntimeError .illegalOpcode)) ∧
        ∀ i, decode w = .instr i → step s = exec i s

/-- R167: taking a runtime error writes the four status registers and one diagnostic record, and changes nothing
else; the codes of `CAUSE` and the messages are those of R164, the encodings of `STATUS` those of R33. -/
def Obligations.RuntimeErrorEntry : Prop :=
  CauseCodes ∧ StatusCodes ∧ ∀ (s : State) (c : Cause), ∃ t, s.takeRuntimeError c = t ∧
    t.status = .runtimeError ∧ t.cause = c.code ∧ t.faultIp = s.ip ∧ t.faultLine = getLine s.lineTable s.ip.toNat ∧
      t.diag = s.diag ++ [{ cause := c.code, faultIp := s.ip, line := getLine s.lineTable s.ip.toNat }] ∧
      t.statusPort = (3, c.code, s.ip, getLine s.lineTable s.ip.toNat) ∧
      t.resultPort = some .runtimeError ∧ t.ip = s.ip ∧ SameBut s t [] [.report]

/-- R181: a run ends in exactly two ways, by HALT with the result `Ok` or by a runtime error with the result
`RuntimeError`; once it has ended, steps change nothing. The error is exactly the entry of R167 from the state before
the instruction, which has written nothing, and its cause is none of the allocator port's (R66, R164). That doing
nothing is a next state equal to the state is the model's reading (log 6), and so is that HALT completes in states
without the allocator invariant (log 8). -/
def Obligations.RunEndsOnlyByHaltOrError : Prop :=
  ∀ s t : State, s.status = .running → step s = .next t →
    (t.status = .running ∧ t.resultPort = none) ∨
    (t.status = .halted ∧ t.resultPort = some .ok ∧ (∃ w, s.code[s.ip.toNat]? = some w ∧ decode w = .instr .halt) ∧
      step t = .next t) ∨
    (t.status = .runtimeError ∧ t.resultPort = some .runtimeError ∧
      (∃ c, t = s.takeRuntimeError c ∧ 1 ≤ c.code.toNat ∧ c.code.toNat ≤ 16) ∧ step t = .next t)

/-- R21: `GetLine` answers the line of the first run at which the summed counts exceed the offset, and −1 when none
does. -/
def Obligations.GetLineWalksRuns : Prop :=
  ∀ (runs : List LineRun) (offset : Nat),
    (∀ j run, runs[j]? = some run → offset < ((runs.take (j + 1)).map (·.count)).sum →
      (∀ i, i < j → ((runs.take (i + 1)).map (·.count)).sum ≤ offset) → getLine runs offset = run.line) ∧
    ((runs.map (·.count)).sum ≤ offset → getLine runs offset = -1)

/-- R42: after reset, whatever the block's parameters, and at the beginning of every run the state has the start
values; the slab holds `SLAB_INIT` after reset and keeps its bytes at a start, which also empties both streams.
`NODE_CAP` is the node count of R59. -/
def Obligations.ResetState : Prop :=
  (∀ s : State, (s = State.reset ∨ ∃ cfg, s = State.resetWith cfg) →
    StartValues s ∧ s.status = .idle ∧ ∀ a, s.slab.byte a = Config.slabInit a) ∧
  (∀ cfg : Config, (State.resetWith cfg).cfg = cfg ∧ cfg.nodeCap = 2 ^ (cfg.slabExp - cfg.minExp + 1) - 1) ∧
    ∀ s : State, s.status ≠ .running → ∃ t, hostRequest .start s = .next t ∧ StartValues t ∧ t.status = .running ∧
      t.out = [] ∧ t.diag = [] ∧ t.slab = s.slab ∧
      t.cfg = s.cfg ∧ t.code = s.code ∧ t.lineTable = s.lineTable ∧ t.metadata = s.metadata

/-- R182: while a run is in progress every load and a second start are refused; otherwise a load within the limits of
its port replaces what it loads and nothing else, and a start is accepted. -/
def Obligations.HostProtocol : Prop :=
  (∀ (r : HostRequest) (s : State), s.status = .running → hostRequest r s = .refused .portBusy) ∧
    ∀ s : State, s.status ≠ .running →
      (∀ words, words.length ≤ s.cfg.codeCap → hostRequest (.loadCode words) s = .next { s with code := words }) ∧
      (∀ runs, hostRequest (.loadLineTable runs) s = .next { s with lineTable := runs }) ∧
      (∀ types, types.length ≤ 2 ^ 32 → hostRequest (.loadMetadata types) s = .next { s with metadata := types }) ∧
      hostRequest .start s = .next s.start

/-! ## The machine's invariant -/

/-- The invariant holds right after reset, whatever legal parameters the block has. It rests on the model's choices at
reset: default parameters (log 1), no code (log 4), empty streams (log 15). -/
def Obligations.ResetHasInv : Prop :=
  State.reset.Inv ∧ ∀ cfg : Config, cfg.Legal → (State.resetWith cfg).Inv

/-- Every accepted host request keeps the invariant. -/
def Obligations.HostRequestsKeepInv : Prop :=
  ∀ (r : HostRequest) (s t : State), s.Inv → hostRequest r s = .next t → t.Inv

/-- Every step keeps the invariant: tags hold a kind, the pointer-slot index is exact, the stack and `ip` stay within
their bounds, the memory stays canonical and inside the slab, the allocator keeps R58, and the status registers agree
with the diagnostic stream. The canonical form of the memory is the model's own (log 2). -/
def Obligations.StepKeepsInv : Prop :=
  ∀ s t : State, s.Inv → step s = .next t → t.Inv

/-- From a state with the invariant a step always gives a next state: the model's own fault is never met, because a
split always finds two node records (R59, log 7), and nothing is refused. That a step outside RUNNING, which does
nothing (R166), is a next state is the model's reading (log 6, DEDUCED). -/
def Obligations.NoStepStops : Prop := ∀ s : State, s.Inv → ∃ t, step s = .next t

/-- R70: no step changes code memory, line table, metadata or parameters; code memory changes only through a code
load while no run is in progress. -/
def Obligations.CodeChangesOnlyByLoad : Prop :=
  (∀ s t : State, step s = .next t →
    t.code = s.code ∧ t.lineTable = s.lineTable ∧ t.metadata = s.metadata ∧ t.cfg = s.cfg) ∧
  ∀ (r : HostRequest) (s t : State), hostRequest r s = .next t →
    s.status ≠ .running ∧ (t.code = s.code ∨ r = .loadCode t.code)

/-- The output stream is append-only within a run, and only OUT and HALT append to it, one record each (R18). -/
def Obligations.OutputAppendOnly : Prop :=
  ∀ (i : Instr) (s t : State), exec i s = .next t →
    t.out = s.out ∨ (∃ record, t.out = s.out ++ [record]) ∧ (i = .halt ∨ ∃ a, i = .out a)

/-- The three reserved bits of a register's tag survive every instruction but HALT, which clears them (R24, R26, R27,
R163). -/
def Obligations.ReservedTagBitsPreserved : Prop :=
  ∀ (i : Instr) (s t : State), exec i s = .next t → ∀ r,
    reservedBits (t.tag r) = if i = .halt then 0 else reservedBits (s.tag r)

/-- Only the comparisons and TEST (opcodes 0x2A to 0x38), a taken conditional jump and HALT change the flag; the last
two clear it (R31). -/
def Obligations.FlagWriters : Prop :=
  ∀ (i : Instr) (s t : State), exec i s = .next t → t.flag ≠ s.flag →
    (0x2A ≤ i.opcode.toNat ∧ i.opcode.toNat ≤ 0x38) ∨
      (t.flag = false ∧ (i = .halt ∨ (∃ imm24, i = .jumpIf imm24) ∨ ∃ a, i = .jumpAbsIf a))

/-- Only the conditional jumps read the flag: with another flag, every other instruction gives the same next state but
for the flag itself (R31). -/
def Obligations.FlagReaders : Prop :=
  ∀ (i : Instr) (s t : State) (b : Bool), (∀ imm24, i ≠ .jumpIf imm24) → (∀ a, i ≠ .jumpAbsIf a) →
    exec i s = .next t → ∃ t', exec i { s with flag := b } = .next t' ∧ { t' with flag := t.flag } = t

/-- No instruction reads the pointer-slot index, the line table, `CAUSE`, `FAULT_IP`, `FAULT_LINE` or the streams: two
states that agree on all else step to states that agree on all else (R21, R33, R35). -/
def Obligations.UnreadStateIsInvisible : Prop :=
  ∀ s s' t : State, SameToProgram s s' → step s = .next t → ∃ t', step s' = .next t' ∧ SameToProgram t t'

/-! ## Data movement (40_data_movement.md) -/

/-- R87: MOVE. -/
def Obligations.MoveCopies : Prop :=
  ∀ (a b : Reg) (s : State), EncodedAs (.move a b) 0x01 .ab ∧
    ∃ t, exec (.move a b) s = .next t ∧
      t.reg b = s.reg a ∧ (t.tag b).extractLsb' 0 5 = (s.tag a).extractLsb' 0 5 ∧
      reservedBits (t.tag b) = reservedBits (s.tag b) ∧ t.ip = s.ip + 1 ∧ SameBut s t [b] []

/-- R88, R90, R91, R92: each of the four quarter writes replaces its 16 bits, keeps the other 48, and tags RAW. -/
def Obligations.ConstQuarterWrites : Prop :=
  ∀ (a : Reg) (imm16 : BitVec 16) (s : State),
    (EncodedAs (.constLow a imm16) 0x02 .ai ∧ ∃ t, exec (.constLow a imm16) s = .next t ∧
      WritesReg s t a ((s.reg a).extractLsb' 16 48 ++ imm16) .raw) ∧
    (EncodedAs (.constMidLow a imm16) 0x04 .ai ∧ ∃ t, exec (.constMidLow a imm16) s = .next t ∧
      WritesReg s t a ((s.reg a).extractLsb' 32 32 ++ imm16 ++ (s.reg a).extractLsb' 0 16) .raw) ∧
    (EncodedAs (.constMidHigh a imm16) 0x05 .ai ∧ ∃ t, exec (.constMidHigh a imm16) s = .next t ∧
      WritesReg s t a ((s.reg a).extractLsb' 48 16 ++ imm16 ++ (s.reg a).extractLsb' 0 32) .raw) ∧
    (EncodedAs (.constHigh a imm16) 0x06 .ai ∧ ∃ t, exec (.constHigh a imm16) s = .next t ∧
      WritesReg s t a (imm16 ++ (s.reg a).extractLsb' 0 48) .raw)

/-- R89: CONST_LOW_NEGATIVE. -/
def Obligations.ConstLowNegativeExtends : Prop :=
  ∀ (a : Reg) (imm16 : BitVec 16) (s : State), EncodedAs (.constLowNegative a imm16) 0x03 .ai ∧
    ∃ t, exec (.constLowNegative a imm16) s = .next t ∧ WritesReg s t a (BitVec.ofInt 64 imm16.toInt) .signed

/-! ## Arithmetic (42_arithmetic.md) -/

/-- R106 to R108, R110 to R112: addition, subtraction and multiplication compute the exact integer and keep its low 64
bits; the two families differ in the tag. The tag codes, which every statement about a typed write speaks of, are
those of R25. -/
def Obligations.IntegerAddSubMul : Prop :=
  TagCodes ∧ ∀ (a b c : Reg) (s : State),
    (EncodedAs (.intAdd a b c) 0x18 .abc ∧ ∃ t, exec (.intAdd a b c) s = .next t ∧
      WritesReg s t c (BitVec.ofInt 64 ((s.reg a).toInt + (s.reg b).toInt)) .signed) ∧
    (EncodedAs (.intSubtract a b c) 0x19 .abc ∧ ∃ t, exec (.intSubtract a b c) s = .next t ∧
      WritesReg s t c (BitVec.ofInt 64 ((s.reg a).toInt - (s.reg b).toInt)) .signed) ∧
    (EncodedAs (.intMultiply a b c) 0x1A .abc ∧ ∃ t, exec (.intMultiply a b c) s = .next t ∧
      WritesReg s t c (BitVec.ofInt 64 ((s.reg a).toInt * (s.reg b).toInt)) .signed) ∧
    (EncodedAs (.uintAdd a b c) 0x1C .abc ∧ ∃ t, exec (.uintAdd a b c) s = .next t ∧
      WritesReg s t c (BitVec.ofNat 64 ((s.reg a).toNat + (s.reg b).toNat)) .raw) ∧
    (EncodedAs (.uintSubtract a b c) 0x1D .abc ∧ ∃ t, exec (.uintSubtract a b c) s = .next t ∧
      WritesReg s t c (BitVec.ofInt 64 (((s.reg a).toNat : Int) - ((s.reg b).toNat : Int))) .raw) ∧
    (EncodedAs (.uintMultiply a b c) 0x1E .abc ∧ ∃ t, exec (.uintMultiply a b c) s = .next t ∧
      WritesReg s t c (BitVec.ofNat 64 ((s.reg a).toNat * (s.reg b).toNat)) .raw)

/-- R109, R113: INT_DIVIDE truncates toward zero, UINT_DIVIDE is the floor of the quotient, and both raise
DIVIDE_BY_ZERO on a zero divisor. -/
def Obligations.IntegerDivision : Prop :=
  ∀ (a b c : Reg) (s : State),
    EncodedAs (.intDivide a b c) 0x1B .abc ∧ EncodedAs (.uintDivide a b c) 0x1F .abc ∧
    (s.reg b = 0 → exec (.intDivide a b c) s = .next (s.takeRuntimeError .divideByZero) ∧
      exec (.uintDivide a b c) s = .next (s.takeRuntimeError .divideByZero)) ∧
    (s.reg b ≠ 0 → ∃ t, exec (.intDivide a b c) s = .next t ∧
      WritesReg s t c
        (BitVec.ofInt 64 (((s.reg a).toInt * (s.reg b).toInt).sign *
          (((s.reg a).toInt.natAbs / (s.reg b).toInt.natAbs : Nat) : Int))) .signed) ∧
    (s.reg b ≠ 0 → ∃ t q, exec (.uintDivide a b c) s = .next t ∧ WritesReg s t c q .raw ∧
      q.toNat * (s.reg b).toNat ≤ (s.reg a).toNat ∧ (s.reg a).toNat < (q.toNat + 1) * (s.reg b).toNat)

/-- R105, R122, R123: AND and OR write the value only and keep the destination's whole tag byte. -/
def Obligations.BitwiseKeepsTag : Prop :=
  ∀ (a b c : Reg) (s : State),
    (EncodedAs (.bitAnd a b c) 0x28 .abc ∧ ∃ t, exec (.bitAnd a b c) s = .next t ∧
      (∀ i, i < 64 → (t.reg c).getLsbD i = ((s.reg a).getLsbD i && (s.reg b).getLsbD i)) ∧
      t.tag c = s.tag c ∧ t.ip = s.ip + 1 ∧ SameBut s t [c] []) ∧
    (EncodedAs (.bitOr a b c) 0x29 .abc ∧ ∃ t, exec (.bitOr a b c) s = .next t ∧
      (∀ i, i < 64 → (t.reg c).getLsbD i = ((s.reg a).getLsbD i || (s.reg b).getLsbD i)) ∧
      t.tag c = s.tag c ∧ t.ip = s.ip + 1 ∧ SameBut s t [c] [])

/-- R114 to R117: the binary32 instructions read bits 31:0 of both sources, write the rounded result with bits 63:32
zero and tag FLOAT; a NaN result is one choice, the same for the same opcode and operand bits. -/
def Obligations.FloatArithmetic : Prop :=
  ∃ choose, NaNChoice32 choose ∧ ∀ (a b c : Reg) (s : State) (x y : BitVec 32),
    x = (s.reg a).extractLsb' 0 32 → y = (s.reg b).extractLsb' 0 32 →
    (EncodedAs (.floatAdd a b c) 0x20 .abc ∧ ∃ t, exec (.floatAdd a b c) s = .next t ∧
      WritesReg s t c ((resultBits32 choose binary32.add 0x20 x y).setWidth 64) .float) ∧
    (EncodedAs (.floatSubtract a b c) 0x21 .abc ∧ ∃ t, exec (.floatSubtract a b c) s = .next t ∧
      WritesReg s t c ((resultBits32 choose binary32.sub 0x21 x y).setWidth 64) .float) ∧
    (EncodedAs (.floatMultiply a b c) 0x22 .abc ∧ ∃ t, exec (.floatMultiply a b c) s = .next t ∧
      WritesReg s t c ((resultBits32 choose binary32.mul 0x22 x y).setWidth 64) .float) ∧
    (EncodedAs (.floatDivide a b c) 0x23 .abc ∧ ∃ t, exec (.floatDivide a b c) s = .next t ∧
      WritesReg s t c ((resultBits32 choose binary32.div 0x23 x y).setWidth 64) .float)

/-- R118 to R121: the binary64 instructions, tag DOUBLE; a NaN result is one choice, the same for the same opcode and
operand bits. -/
def Obligations.DoubleArithmetic : Prop :=
  ∃ choose, NaNChoice64 choose ∧ ∀ (a b c : Reg) (s : State),
    (EncodedAs (.doubleAdd a b c) 0x24 .abc ∧ ∃ t, exec (.doubleAdd a b c) s = .next t ∧
      WritesReg s t c (resultBits64 choose binary64.add 0x24 (s.reg a) (s.reg b)) .double) ∧
    (EncodedAs (.doubleSubtract a b c) 0x25 .abc ∧ ∃ t, exec (.doubleSubtract a b c) s = .next t ∧
      WritesReg s t c (resultBits64 choose binary64.sub 0x25 (s.reg a) (s.reg b)) .double) ∧
    (EncodedAs (.doubleMultiply a b c) 0x26 .abc ∧ ∃ t, exec (.doubleMultiply a b c) s = .next t ∧
      WritesReg s t c (resultBits64 choose binary64.mul 0x26 (s.reg a) (s.reg b)) .double) ∧
    (EncodedAs (.doubleDivide a b c) 0x27 .abc ∧ ∃ t, exec (.doubleDivide a b c) s = .next t ∧
      WritesReg s t c (resultBits64 choose binary64.div 0x27 (s.reg a) (s.reg b)) .double)

/-- Rounding a fraction to either format is to nearest, ties to even, with overflow to infinity (R11, R104): the
laws of IEEE 754, PRESUMED, log 14. -/
def Obligations.RoundingIsNearestEven : Prop := binary32.RoundsToNearestEven ∧ binary64.RoundsToNearestEven

/-- On finite operands (a nonzero divisor for division) the four operations of both formats are the exact sum,
difference, product or quotient, correctly rounded (R11, R104): the laws of IEEE 754, PRESUMED, log 14. Values are
counted in smallest subnormals, 2 to the power −149 and −1074; 1.5, the largest finite number and infinity fix the
reading of patterns. -/
def Obligations.FiniteResultsAreCorrectlyRounded : Prop :=
  (∀ F u, (F, u) ∈ [(binary32, 149), (binary64, 1074)] → ∀ n x m y,
    (∃ p, F.unpack p = .finite n x) → (∃ q, F.unpack q = .finite m y) →
    (∃ r, F.add (.finite n x) (.finite m y) = some r ∧ F.CorrectlyRounded (signedMag n x + signedMag m y) 1 r) ∧
    (∃ r, F.sub (.finite n x) (.finite m y) = some r ∧ F.CorrectlyRounded (signedMag n x - signedMag m y) 1 r) ∧
    (∃ r, F.mul (.finite n x) (.finite m y) = some r ∧
      F.CorrectlyRounded (signedMag n x * signedMag m y) (2 ^ u) r) ∧
    (y ≠ 0 → ∃ r, F.div (.finite n x) (.finite m y) = some r ∧
      F.CorrectlyRounded ((signedMag m y).sign * signedMag n x * 2 ^ u) y r)) ∧
  binary32.unpack 0x3FC00000 = .finite false (3 * 2 ^ 148) ∧
  binary32.unpack 0xFF7FFFFF = .finite true ((2 ^ 24 - 1) * 2 ^ 253) ∧ binary32.unpack 0x7F800000 = .inf false ∧
  binary64.unpack 0x3FF8000000000000 = .finite false (3 * 2 ^ 1073) ∧
  binary64.unpack 0xFFEFFFFFFFFFFFFF = .finite true ((2 ^ 53 - 1) * 2 ^ 2045) ∧
  binary64.unpack 0x7FF0000000000000 = .inf false

/-- The results whose sign or kind the exact number does not settle. A NaN: NaN operands, ∞−∞, 0·∞, 0/0, ∞/∞. An
infinity: every other sum, difference, product or quotient with an infinite operand (a finite number over an infinity
is a zero), and a nonzero finite number over ±0. Signs: in every product and quotient that is no NaN the exclusive-or
of the operands' signs, also where the result is a zero or underflows to one; of zeros, and of x − x, +0 unless both
addends are −0 (R104, R114 to R117): the laws of IEEE 754, PRESUMED, log 14. -/
def Obligations.SpecialFloatResults : Prop :=
  ∀ F ∈ [binary32, binary64], ∀ (v : FloatVal) (n m : Bool) (x y : Nat),
    (∀ f ∈ [F.add, F.sub, F.mul, F.div], f .nan v = none ∧ f v .nan = none) ∧
    (F.add (.inf n) (.inf !n) = none ∧ F.sub (.inf n) (.inf n) = none ∧
      F.mul (.finite n 0) (.inf m) = none ∧ F.mul (.inf n) (.finite m 0) = none ∧
      F.div (.finite n 0) (.finite m 0) = none ∧ F.div (.inf n) (.inf m) = none) ∧
    (F.add (.inf n) (.inf n) = some (F.withSign n F.infBits) ∧
      F.add (.inf n) (.finite m y) = some (F.withSign n F.infBits) ∧
      F.add (.finite n x) (.inf m) = some (F.withSign m F.infBits)) ∧
    (F.sub (.inf n) (.inf !n) = some (F.withSign n F.infBits) ∧
      F.sub (.inf n) (.finite m y) = some (F.withSign n F.infBits) ∧
      F.sub (.finite n x) (.inf m) = some (F.withSign (!m) F.infBits)) ∧
    (F.mul (.inf n) (.inf m) = some (F.withSign (n ^^ m) F.infBits) ∧
      (y ≠ 0 → F.mul (.inf n) (.finite m y) = some (F.withSign (n ^^ m) F.infBits)) ∧
      (x ≠ 0 → F.mul (.finite n x) (.inf m) = some (F.withSign (n ^^ m) F.infBits))) ∧
    (F.div (.inf n) (.finite m y) = some (F.withSign (n ^^ m) F.infBits) ∧
      F.div (.finite n x) (.inf m) = some (F.withSign (n ^^ m) 0) ∧
      (x ≠ 0 → F.div (.finite n x) (.finite m 0) = some (F.withSign (n ^^ m) F.infBits))) ∧
    (F.mul (.finite n 0) (.finite m y) = some (F.withSign (n ^^ m) 0) ∧
      F.mul (.finite n x) (.finite m 0) = some (F.withSign (n ^^ m) 0) ∧
      (y ≠ 0 → F.div (.finite n 0) (.finite m y) = some (F.withSign (n ^^ m) 0))) ∧
    ((∃ mag, mag ≤ F.infBits ∧ F.mul (.finite n x) (.finite m y) = some (F.withSign (n ^^ m) mag)) ∧
      (y ≠ 0 → ∃ mag, mag ≤ F.infBits ∧ F.div (.finite n x) (.finite m y) = some (F.withSign (n ^^ m) mag))) ∧
    (F.add (.finite n 0) (.finite n 0) = some (F.withSign n 0) ∧ F.add (.finite n x) (.finite (!n) x) = some 0 ∧
      F.sub (.finite n 0) (.finite (!n) 0) = some (F.withSign n 0) ∧ F.sub (.finite n x) (.finite n x) = some 0)

/-! ## Comparison (43_compare.md) -/

/-- R127 to R132: the integer comparisons. -/
def Obligations.IntegerComparisons : Prop :=
  ∀ (a b c : Reg) (s : State),
    (EncodedAs (.equal a b c) 0x2A .abc ∧ ∃ t, exec (.equal a b c) s = .next t ∧
      WritesBool s t c (decide (s.reg a = s.reg b))) ∧
    (EncodedAs (.notEqual a b c) 0x2B .abc ∧ ∃ t, exec (.notEqual a b c) s = .next t ∧
      WritesBool s t c (decide (s.reg a ≠ s.reg b))) ∧
    (EncodedAs (.intLess a b c) 0x2C .abc ∧ ∃ t, exec (.intLess a b c) s = .next t ∧
      WritesBool s t c (decide ((s.reg a).toInt < (s.reg b).toInt))) ∧
    (EncodedAs (.intLessEqual a b c) 0x2D .abc ∧ ∃ t, exec (.intLessEqual a b c) s = .next t ∧
      WritesBool s t c (decide ((s.reg a).toInt ≤ (s.reg b).toInt))) ∧
    (EncodedAs (.uintLess a b c) 0x2E .abc ∧ ∃ t, exec (.uintLess a b c) s = .next t ∧
      WritesBool s t c (decide ((s.reg a).toNat < (s.reg b).toNat))) ∧
    (EncodedAs (.uintLessEqual a b c) 0x2F .abc ∧ ∃ t, exec (.uintLessEqual a b c) s = .next t ∧
      WritesBool s t c (decide ((s.reg a).toNat ≤ (s.reg b).toNat)))

/-- R126, R133 to R136: the binary32 comparisons are quiet: a NaN operand makes all but NOT_EQUAL false, the zeros are
equal, and only rC and the flag are written. -/
def Obligations.FloatComparisons : Prop :=
  ∀ (a b c : Reg) (s : State) (x y : FloatVal),
    x = f32 ((s.reg a).extractLsb' 0 32) → y = f32 ((s.reg b).extractLsb' 0 32) →
    (EncodedAs (.floatEqual a b c) 0x30 .abc ∧ ∃ t r, exec (.floatEqual a b c) s = .next t ∧
      WritesBool s t c r ∧ (r = true ↔ QuietEqual x y)) ∧
    (EncodedAs (.floatNotEqual a b c) 0x31 .abc ∧ ∃ t r, exec (.floatNotEqual a b c) s = .next t ∧
      WritesBool s t c r ∧ (r = true ↔ ¬ QuietEqual x y)) ∧
    (EncodedAs (.floatLess a b c) 0x32 .abc ∧ ∃ t r, exec (.floatLess a b c) s = .next t ∧
      WritesBool s t c r ∧ (r = true ↔ QuietLess x y)) ∧
    (EncodedAs (.floatLessEqual a b c) 0x33 .abc ∧ ∃ t r, exec (.floatLessEqual a b c) s = .next t ∧
      WritesBool s t c r ∧ (r = true ↔ QuietLess x y ∨ QuietEqual x y))

/-- R126, R137 to R140: the binary64 comparisons are quiet in the same way. -/
def Obligations.DoubleComparisons : Prop :=
  ∀ (a b c : Reg) (s : State) (x y : FloatVal), x = f64 (s.reg a) → y = f64 (s.reg b) →
    (EncodedAs (.doubleEqual a b c) 0x34 .abc ∧ ∃ t r, exec (.doubleEqual a b c) s = .next t ∧
      WritesBool s t c r ∧ (r = true ↔ QuietEqual x y)) ∧
    (EncodedAs (.doubleNotEqual a b c) 0x35 .abc ∧ ∃ t r, exec (.doubleNotEqual a b c) s = .next t ∧
      WritesBool s t c r ∧ (r = true ↔ ¬ QuietEqual x y)) ∧
    (EncodedAs (.doubleLess a b c) 0x36 .abc ∧ ∃ t r, exec (.doubleLess a b c) s = .next t ∧
      WritesBool s t c r ∧ (r = true ↔ QuietLess x y)) ∧
    (EncodedAs (.doubleLessEqual a b c) 0x37 .abc ∧ ∃ t r, exec (.doubleLessEqual a b c) s = .next t ∧
      WritesBool s t c r ∧ (r = true ↔ QuietLess x y ∨ QuietEqual x y))

/-- R30, R141: TEST writes the truth value of a register: a DOUBLE is false on the two zero patterns, a FLOAT on the
two zero patterns of its bits 31:0, anything else on 0. -/
def Obligations.TestWritesTruth : Prop :=
  ∀ (a b : Reg) (s : State), EncodedAs (.test a b) 0x38 .ab ∧
    ∃ t r, exec (.test a b) s = .next t ∧ WritesBool s t b r ∧
      (r = true ↔
        if (s.tag a).getLsbD 3 then s.reg a ≠ 0 ∧ s.reg a ≠ 0x8000000000000000
        else if (s.tag a).getLsbD 2 then
          (s.reg a).extractLsb' 0 32 ≠ 0 ∧ (s.reg a).extractLsb' 0 32 ≠ 0x80000000
        else s.reg a ≠ 0)

/-! ## Control transfer (44_control.md) -/

/-- R146: JUMP. -/
def Obligations.JumpGoesToRelativeTarget : Prop :=
  ∀ (imm24 : BitVec 24) (s : State) (target : Int), target = (s.ip.toNat : Int) + 1 + imm24.toInt →
    EncodedAs (.jump imm24) 0x0E .j ∧
    (¬ (0 ≤ target ∧ target < (s.code.length : Int)) →
      exec (.jump imm24) s = .next (s.takeRuntimeError .jumpOutOfRange)) ∧
    (0 ≤ target ∧ target < (s.code.length : Int) →
      ∃ t, exec (.jump imm24) s = .next t ∧ t.ip = BitVec.ofInt 25 target ∧ SameBut s t [] [])

/-- R147: JUMP_IF reads the flag; a taken jump checks its target and clears the flag, an untaken one checks nothing. -/
def Obligations.JumpIfTakesAndClears : Prop :=
  ∀ (imm24 : BitVec 24) (s : State) (target : Int), target = (s.ip.toNat : Int) + 1 + imm24.toInt →
    EncodedAs (.jumpIf imm24) 0x0F .j ∧
    (s.flag = true ∧ ¬ (0 ≤ target ∧ target < (s.code.length : Int)) →
      exec (.jumpIf imm24) s = .next (s.takeRuntimeError .jumpOutOfRange)) ∧
    (s.flag = true ∧ 0 ≤ target ∧ target < (s.code.length : Int) →
      ∃ t, exec (.jumpIf imm24) s = .next t ∧ t.ip = BitVec.ofInt 25 target ∧ t.flag = false ∧
        SameBut s t [] [.flag]) ∧
    (s.flag = false → ∃ t, exec (.jumpIf imm24) s = .next t ∧ t.ip = s.ip + 1 ∧ SameBut s t [] [])

/-- R148, R149: the jumps to the index in a register, read unsigned. -/
def Obligations.AbsoluteJumps : Prop :=
  ∀ (a : Reg) (s : State),
    (EncodedAs (.jumpAbs a) 0x10 .a ∧
      (s.code.length ≤ (s.reg a).toNat → exec (.jumpAbs a) s = .next (s.takeRuntimeError .jumpOutOfRange)) ∧
      ((s.reg a).toNat < s.code.length →
        ∃ t, exec (.jumpAbs a) s = .next t ∧ t.ip = BitVec.ofNat 25 (s.reg a).toNat ∧ SameBut s t [] [])) ∧
    (EncodedAs (.jumpAbsIf a) 0x11 .a ∧
      (s.flag = true ∧ s.code.length ≤ (s.reg a).toNat →
        exec (.jumpAbsIf a) s = .next (s.takeRuntimeError .jumpOutOfRange)) ∧
      (s.flag = true ∧ (s.reg a).toNat < s.code.length →
        ∃ t, exec (.jumpAbsIf a) s = .next t ∧ t.ip = BitVec.ofNat 25 (s.reg a).toNat ∧ t.flag = false ∧
          SameBut s t [] [.flag]) ∧
      (s.flag = false → ∃ t, exec (.jumpAbsIf a) s = .next t ∧ t.ip = s.ip + 1 ∧ SameBut s t [] []))

/-! ## Value stack, call and return (45_stack_call.md) -/

/-- R153: PUSH. The slot takes the value and tag bits 4:0, reserved bits 0, and joins the pointer-slot index when it
holds a pointer; a full stack is STACK_OVERFLOW. -/
def Obligations.PushAppendsSlot : Prop :=
  ∀ (a : Reg) (s : State), EncodedAs (.push a) 0x07 .a ∧
    (s.stack.length = s.cfg.stackCap → exec (.push a) s = .next (s.takeRuntimeError .stackOverflow)) ∧
    (s.stack.length < s.cfg.stackCap → ∃ t, exec (.push a) s = .next t ∧
      t.stack = s.stack ++ [{ val := s.reg a, tag := 0#3 ++ (s.tag a).extractLsb' 0 5 }] ∧
      (∀ k, k ∈ t.pointerSlots ↔ k ∈ s.pointerSlots ∨ ((s.tag a).getLsbD 0 = true ∧ k = s.stack.length)) ∧
      t.ip = s.ip + 1 ∧ SameBut s t [] [.stack])

/-- R154: POP. An empty stack is STACK_UNDERFLOW. -/
def Obligations.PopRemovesSlot : Prop :=
  ∀ (a : Reg) (s : State), EncodedAs (.pop a) 0x08 .a ∧
    (s.stack = [] → exec (.pop a) s = .next (s.takeRuntimeError .stackUnderflow)) ∧
    ∀ below slot, s.stack = below ++ [slot] → ∃ t, exec (.pop a) s = .next t ∧
      t.reg a = slot.val ∧ (t.tag a).extractLsb' 0 5 = slot.tag.extractLsb' 0 5 ∧
      reservedBits (t.tag a) = reservedBits (s.tag a) ∧ t.stack = below ∧
      (∀ k, k ∈ t.pointerSlots ↔ k ∈ s.pointerSlots ∧ k ≠ below.length) ∧
      t.ip = s.ip + 1 ∧ SameBut s t [a] [.stack]

/-- R155: PUSH_IP pushes the index `ip + 1 + off`, tag 0, checking the index first and then the stack. -/
def Obligations.PushIpPushesIndex : Prop :=
  ∀ (imm24 : BitVec 24) (s : State) (target : Int), target = (s.ip.toNat : Int) + 1 + imm24.toInt →
    EncodedAs (.pushIp imm24) 0x0B .j ∧
    (¬ (0 ≤ target ∧ target < (s.code.length : Int)) →
      exec (.pushIp imm24) s = .next (s.takeRuntimeError .jumpOutOfRange)) ∧
    (0 ≤ target ∧ target < (s.code.length : Int) →
      (s.stack.length = s.cfg.stackCap → exec (.pushIp imm24) s = .next (s.takeRuntimeError .stackOverflow)) ∧
      (s.stack.length < s.cfg.stackCap → ∃ t, exec (.pushIp imm24) s = .next t ∧
        t.stack = s.stack ++ [{ val := BitVec.ofInt 64 target, tag := 0 }] ∧ t.pointerSlots = s.pointerSlots ∧
        t.ip = s.ip + 1 ∧ SameBut s t [] [.stack]))

/-- R156: NEW_STACK_FRAME saves the frame register with its tag and sets it to the new stack size. -/
def Obligations.NewStackFrameOpensFrame : Prop :=
  ∀ (s : State) (fr : Reg), fr = s.cfg.frameReg → EncodedAs .newStackFrame 0x0C .n ∧
    (s.stack.length = s.cfg.stackCap → exec .newStackFrame s = .next (s.takeRuntimeError .stackOverflow)) ∧
    (s.stack.length < s.cfg.stackCap → ∃ t, exec .newStackFrame s = .next t ∧
      t.stack = s.stack ++ [{ val := s.reg fr, tag := 0#3 ++ (s.tag fr).extractLsb' 0 5 }] ∧
      (∀ k, k ∈ t.pointerSlots ↔ k ∈ s.pointerSlots ∨ ((s.tag fr).getLsbD 0 = true ∧ k = s.stack.length)) ∧
      t.reg fr = BitVec.ofNat 64 t.stack.length ∧ TaggedAs s t fr .raw ∧ t.ip = s.ip + 1 ∧
      SameBut s t [fr] [.stack])

/-- R157: RETURN restores the frame register, drops the saved base and every local and resumes at the saved index,
after its two checks in order. -/
def Obligations.ReturnClosesFrame : Prop :=
  ∀ (s : State) (fr : Reg) (base : Nat), fr = s.cfg.frameReg → base = (s.reg fr).toNat →
    EncodedAs .ret 0x0D .n ∧
    (base < 2 ∨ s.stack.length < base → exec .ret s = .next (s.takeRuntimeError .badFrame)) ∧
    ∀ link saved, 2 ≤ base → base ≤ s.stack.length →
      s.stack[base - 2]? = some link → s.stack[base - 1]? = some saved →
      (s.code.length ≤ link.val.toNat → exec .ret s = .next (s.takeRuntimeError .jumpOutOfRange)) ∧
      (link.val.toNat < s.code.length → ∃ t, exec .ret s = .next t ∧
        t.reg fr = saved.val ∧ (t.tag fr).extractLsb' 0 5 = saved.tag.extractLsb' 0 5 ∧
        reservedBits (t.tag fr) = reservedBits (s.tag fr) ∧ t.stack = s.stack.take (base - 1) ∧
        (∀ k, k ∈ t.pointerSlots ↔ k ∈ s.pointerSlots ∧ k < base - 1) ∧
        t.ip = BitVec.ofNat 25 link.val.toNat ∧ SameBut s t [fr] [.stack])

/-- R159, R160: the slot at the exact sum of frame register and offset is read by MOVE_FROM_STACK_FRAME and overwritten
by MOVE_TO_STACK_FRAME, which keeps the pointer-slot index in step; a slot that does not exist is an error. -/
def Obligations.FrameMoves : Prop :=
  ∀ (a b : Reg) (s : State) (k : Nat), k = (s.reg s.cfg.frameReg).toNat + (s.reg a).toNat →
    EncodedAs (.moveFromStackFrame a b) 0x09 .ab ∧ EncodedAs (.moveToStackFrame a b) 0x0A .ab ∧
    (s.stack.length ≤ k →
      exec (.moveFromStackFrame a b) s = .next (s.takeRuntimeError .stackFrameOutOfBounds) ∧
      exec (.moveToStackFrame a b) s = .next (s.takeRuntimeError .stackFrameOutOfBounds)) ∧
    (∀ slot, s.stack[k]? = some slot → ∃ t, exec (.moveFromStackFrame a b) s = .next t ∧
      t.reg b = slot.val ∧ (t.tag b).extractLsb' 0 5 = slot.tag.extractLsb' 0 5 ∧
      reservedBits (t.tag b) = reservedBits (s.tag b) ∧ t.ip = s.ip + 1 ∧ SameBut s t [b] []) ∧
    (k < s.stack.length → ∃ t, exec (.moveToStackFrame a b) s = .next t ∧
      t.stack = s.stack.set k { val := s.reg b, tag := 0#3 ++ (s.tag b).extractLsb' 0 5 } ∧
      (∀ j, j ∈ t.pointerSlots ↔ if j = k then (s.tag b).getLsbD 0 = true else j ∈ s.pointerSlots) ∧
      t.ip = s.ip + 1 ∧ SameBut s t [] [.stack])

/-- R158: after PUSH_IP, NEW_STACK_FRAME, a body that leaves the frame register and the slots below the base alone,
and RETURN, the stack and the frame register are as just before NEW_STACK_FRAME and `ip` is the index PUSH_IP
computed. -/
def Obligations.CallReturnSymmetry : Prop :=
  ∀ (imm24 : BitVec 24) (s : State) (target : Int), target = (s.ip.toNat : Int) + 1 + imm24.toInt →
    0 ≤ target → target < (s.code.length : Int) → s.code.length ≤ s.cfg.codeCap → s.cfg.Legal →
    s.stack.length + 2 ≤ s.cfg.stackCap →
    ∃ s1 s2, exec (.pushIp imm24) s = .next s1 ∧ exec .newStackFrame s1 = .next s2 ∧
      s2.stack.length = s1.stack.length + 1 ∧ (s2.reg s.cfg.frameReg).toNat = s1.stack.length + 1 ∧
      ∀ s3 : State, s3.cfg = s.cfg → s3.code = s.code → s3.reg s.cfg.frameReg = s2.reg s.cfg.frameReg →
        s3.stack.take s2.stack.length = s2.stack →
        ∃ t, exec .ret s3 = .next t ∧ t.stack = s1.stack ∧ t.reg s.cfg.frameReg = s1.reg s.cfg.frameReg ∧
          (t.ip.toNat : Int) = target

/-! ## The heap (20_memory.md, 41_heap.md) -/

/-- R46, R47: heap accesses are little-endian, checked against the slab alone (R45), and write nothing when they
fail. -/
def Obligations.HeapAccessIsLittleEndian : Prop :=
  (∀ (cfg : Config) (a n : Nat), inSlab cfg a n ↔ cfg.slabBase ≤ a ∧ a + n ≤ cfg.slabBase + 2 ^ cfg.slabExp) ∧
  (∀ (m : Memory) (a n : Nat), m.readLE a n = ∑ j ∈ Finset.range n, (m.byte (a + j)).toNat * 2 ^ (8 * j)) ∧
  ∀ (s : State) (a n : Nat) (v : Cell64), n ∈ [1, 2, 4, 8] →
    (¬ (s.cfg.slabBase ≤ a ∧ a + n ≤ s.cfg.slabBase + 2 ^ s.cfg.slabExp) →
      s.memRead a n = .error (.cause .addressOutOfRange) ∧ s.memWrite a n v = .error (.cause .addressOutOfRange)) ∧
    (s.cfg.slabBase ≤ a ∧ a + n ≤ s.cfg.slabBase + 2 ^ s.cfg.slabExp →
      s.memRead a n = .ok (∑ j ∈ Finset.range n, (s.slab.byte (a + j)).toNat * 2 ^ (8 * j)) ∧
      ∃ t, s.memWrite a n v = .ok t ∧ StoresBytes s t a n v ∧ t.ip = s.ip ∧ SameBut s t [] [.heap])

/-- R61: `Alloc` answers the lowest free block that is large enough, split down to the size asked for, or OOM exactly
when there is none; the allocator invariant is kept and one allocated leaf is added. -/
def Obligations.AllocFindsLowestBlock : Prop :=
  ∀ (cfg : Config) (tree : Node) (pool k0 k : Nat), AllocatorInv cfg tree pool → k = max k0 cfg.minExp →
    ((∀ leaf ∈ tree.leaves, leaf.2.2 = false → leaf.2.1 < k) → allocBlock cfg tree pool k0 = .oom) ∧
    (∀ a, LowestFree tree k a → ∃ tree' pool', allocBlock cfg tree pool k0 = .found a tree' pool' ∧
      AllocatorInv cfg tree' pool' ∧
      (∀ leaf, leaf ∈ tree'.allocatedLeaves ↔ leaf ∈ tree.allocatedLeaves ∨ leaf = (a, k)) ∧
      (a, k) ∉ tree.allocatedLeaves)

/-- R65: freeing the allocated leaves in any order never faults and ends with one unsplit free root and
`NODE_CAP − 1` records in the pool. -/
def Obligations.FreeAllRestoresRoot : Prop :=
  ∀ (cfg : Config) (tree : Node) (pool : Nat), AllocatorInv cfg tree pool →
    ∀ order : List (Nat × Nat), order.Perm tree.allocatedLeaves →
      order.foldlM (fun tp leaf => freeBlock cfg tp.1 tp.2 leaf.1 leaf.2) (tree, pool) =
        .ok (.leaf cfg.slabExp cfg.slabBase false, cfg.nodeCap - 1)

/-- Freeing the block that `Alloc` has just answered restores the tree and the pool (R61 to R64). -/
def Obligations.AllocThenFreeRestoresTree : Prop :=
  ∀ (cfg : Config) (tree tree' : Node) (pool pool' k0 a : Nat), AllocatorInv cfg tree pool →
    allocBlock cfg tree pool k0 = .found a tree' pool' →
    freeBlock cfg tree' pool' a (max k0 cfg.minExp) = .ok (tree, pool)

/-- The leaves partition the slab, each aligned to its size and no smaller than the floor (R44, R58). -/
def Obligations.LeavesPartitionSlab : Prop :=
  ∀ (cfg : Config) (tree : Node) (pool : Nat), AllocatorInv cfg tree pool →
    Tiles tree.leaves cfg.slabBase (cfg.slabBase + 2 ^ cfg.slabExp) ∧
      ∀ a e allocated, (a, e, allocated) ∈ tree.leaves →
        cfg.minExp ≤ e ∧ e ≤ cfg.slabExp ∧ 2 ^ e ∣ a - cfg.slabBase

/-- R96: ALLOC of a known type answers the block of the smallest exponent that holds its fields, tagged PTR; an
unknown type and a full heap are errors, in that order. The size of a type is its last field's offset plus that
field's size, 0 with no field (R56). -/
def Obligations.AllocGivesBlock : Prop :=
  TypeMeta.size ⟨[]⟩ = 0 ∧
  (∀ (fields : List FieldMeta) (last : FieldMeta),
    TypeMeta.size ⟨fields ++ [last]⟩ = last.offset.toNat + last.kind.size) ∧
  FieldKinds ∧ ∀ (a b : Reg) (s : State), EncodedAs (.alloc a b) 0x12 .ab ∧
    (s.metadata.length ≤ (s.reg a).toNat → exec (.alloc a b) s = .next (s.takeRuntimeError .unknownType)) ∧
    ∀ ty k, s.metadata[(s.reg a).toNat]? = some ty → k = max s.cfg.minExp (Nat.clog 2 ty.size) →
      (allocBlock s.cfg s.tree s.pool k = .oom → exec (.alloc a b) s = .next (s.takeRuntimeError .outOfMemory)) ∧
      ∀ r tree pool, allocBlock s.cfg s.tree s.pool k = .found r tree pool →
        ∃ t, exec (.alloc a b) s = .next t ∧ t.reg b = BitVec.ofNat 64 r ∧ TaggedAs s t b .ptr ∧
          t.tree = tree ∧ t.pool = pool ∧ t.ip = s.ip + 1 ∧ SameBut s t [b] [.allocator]

/-- R97: ALLOC_ARRAY checks the span, sizes the block on the exact product, and writes the count and the span, and
nothing else, into the block's first 16 bytes; the pointer is tagged ARRAYPTR. -/
def Obligations.AllocArrayWritesHeader : Prop :=
  ∀ (a b c : Reg) (s : State), EncodedAs (.allocArray a b c) 0x13 .abc ∧
    ((s.reg b).toNat ∉ [1, 2, 4, 8] →
      exec (.allocArray a b c) s = .next (s.takeRuntimeError .invalidArraySpan)) ∧
    ∀ k, (s.reg b).toNat ∈ [1, 2, 4, 8] →
      k = max s.cfg.minExp (Nat.clog 2 (16 + (s.reg a).toNat * (s.reg b).toNat)) →
      (allocBlock s.cfg s.tree s.pool k = .oom →
        exec (.allocArray a b c) s = .next (s.takeRuntimeError .outOfMemory)) ∧
      ∀ r tree pool, AllocatorInv s.cfg s.tree s.pool → allocBlock s.cfg s.tree s.pool k = .found r tree pool →
        ∃ t, exec (.allocArray a b c) s = .next t ∧
          (∀ j, j < 8 → t.slab.byte (r + j) = (s.reg a).extractLsb' (8 * j) 8) ∧
          (∀ j, j < 8 → t.slab.byte (r + 8 + j) = (s.reg b).extractLsb' (8 * j) 8) ∧
          (∀ x, x < r ∨ r + 16 ≤ x → t.slab.byte x = s.slab.byte x) ∧
          t.reg c = BitVec.ofNat 64 r ∧ TaggedAs s t c .arrayPtr ∧ t.tree = tree ∧ t.pool = pool ∧
          t.ip = s.ip + 1 ∧ SameBut s t [c] [.heap, .allocator]

/-- R98: STRUCT_LOAD reads the field that the selector names, extended and tagged as its kind says, after the checks in
order; what a kind says is the table of R55. -/
def Obligations.StructLoadReadsField : Prop :=
  FieldKinds ∧ ∀ (a b c : Reg) (s : State), EncodedAs (.structLoad a b c) 0x14 .abc ∧
    (∀ e, s.fieldError a b = some e → exec (.structLoad a b c) s = .next (s.takeRuntimeError e)) ∧
    ∀ ty field, s.fieldError a b = none → s.metadata[((s.reg b).extractLsb' 32 32).toNat]? = some ty →
      ty.fields[((s.reg b).extractLsb' 0 32).toNat]? = some field →
      ∃ t v, exec (.structLoad a b c) s = .next t ∧
        LoadsBytes s ((s.reg a).toNat + field.offset.toNat) field.kind.size field.kind.signExtends v ∧
        WritesReg s t c v field.kind.tagKind

/-- R99: STRUCT_STORE writes the low bytes of the value to the field that the selector names, and no other byte and no
register; the size of a field is that of R55. -/
def Obligations.StructStoreWritesField : Prop :=
  FieldKinds ∧ ∀ (a b c : Reg) (s : State), EncodedAs (.structStore a b c) 0x15 .abc ∧
    (∀ e, s.fieldError a b = some e → exec (.structStore a b c) s = .next (s.takeRuntimeError e)) ∧
    ∀ ty field, s.fieldError a b = none → s.metadata[((s.reg b).extractLsb' 32 32).toNat]? = some ty →
      ty.fields[((s.reg b).extractLsb' 0 32).toNat]? = some field →
      ∃ t, exec (.structStore a b c) s = .next t ∧
        StoresBytes s t ((s.reg a).toNat + field.offset.toNat) field.kind.size (s.reg c) ∧
        t.ip = s.ip + 1 ∧ SameBut s t [] [.heap]

/-- R100: ARRAY_LOAD reads the indexed element, zero-extended and tagged RAW, after the checks in order. -/
def Obligations.ArrayLoadReadsElement : Prop :=
  ∀ (a b c : Reg) (s : State), EncodedAs (.arrayLoad a b c) 0x16 .abc ∧
    (∀ e, s.arrayError a b = some e → exec (.arrayLoad a b c) s = .next (s.takeRuntimeError e)) ∧
    (s.arrayError a b = none → ∃ t v, exec (.arrayLoad a b c) s = .next t ∧
      LoadsBytes s (s.elementAddr a b) (s.arraySpan a) false v ∧ WritesReg s t c v .raw)

/-- R101: ARRAY_STORE writes the low bytes of the value to the indexed element, and no other byte and no register. -/
def Obligations.ArrayStoreWritesElement : Prop :=
  ∀ (a b c : Reg) (s : State), EncodedAs (.arrayStore a b c) 0x17 .abc ∧
    (∀ e, s.arrayError a b = some e → exec (.arrayStore a b c) s = .next (s.takeRuntimeError e)) ∧
    (s.arrayError a b = none → ∃ t, exec (.arrayStore a b c) s = .next t ∧
      StoresBytes s t (s.elementAddr a b) (s.arraySpan a) (s.reg c) ∧ t.ip = s.ip + 1 ∧ SameBut s t [] [.heap])

/-! ## Output and halt (46_halt_output.md) -/

/-- R161, R162: OUT appends one record, whose kind the register's tag selects. -/
def Obligations.OutAppendsRecord : Prop :=
  ∀ (a : Reg) (s : State), EncodedAs (.out a) 0x39 .a ∧
    ∃ t kind, exec (.out a) s = .next t ∧ t.out = s.out ++ [{ kind := kind, bits := s.reg a }] ∧
      kind = (if (s.tag a).getLsbD 3 then .double else if (s.tag a).getLsbD 2 then .float
        else if (s.tag a).getLsbD 1 then .signed else .unsigned) ∧
      t.ip = s.ip + 1 ∧ SameBut s t [] [.out]

/-- R163: HALT prints the return register, clears registers, tags, stack, pointer-slot index and flag, frees every
block, and ends the run with success; it keeps the slab bytes and the other status registers. -/
def Obligations.HaltClearsMachine : Prop :=
  ∀ (s : State) (rr : Reg), rr = s.cfg.returnReg → AllocatorInv s.cfg s.tree s.pool →
    EncodedAs .halt 0x00 .n ∧ encode .halt = 0x00000000 ∧
    ∃ t kind, exec .halt s = .next t ∧ t.out = s.out ++ [{ kind := kind, bits := s.reg rr }] ∧
      kind = (if (s.tag rr).getLsbD 3 then .double else if (s.tag rr).getLsbD 2 then .float
        else if (s.tag rr).getLsbD 1 then .signed else .unsigned) ∧
      (∀ r, t.reg r = 0 ∧ t.tag r = 0) ∧ t.stack = [] ∧ t.pointerSlots = [] ∧
      t.tree = .leaf s.cfg.slabExp s.cfg.slabBase false ∧ t.pool = s.cfg.nodeCap - 1 ∧ t.flag = false ∧
      t.ip = s.ip + 1 ∧ t.status = .halted ∧ t.resultPort = some .ok ∧ t.slab = s.slab ∧
      t.cause = s.cause ∧ t.faultIp = s.faultIp ∧ t.faultLine = s.faultLine ∧ t.diag = s.diag ∧
      t.cfg = s.cfg ∧ t.code = s.code ∧ t.lineTable = s.lineTable ∧ t.metadata = s.metadata
end

