-- ==== Sys2Proof/Laws/Alloc.lean ====
section
/-! SUPPORT. What the allocator's operations do to a tree of the right shape: the shape is kept and no node record is
lost (20_memory.md R58 to R64). -/

namespace Sys2Proof.Machine

/-! ## Shapes -/

theorem Node.Shaped.e_eq {m e a : Nat} {n : Node} (h : n.Shaped m e a) : n.e = e := by
  cases n <;> exact h.1

theorem Node.Shaped.addr_eq {m e a : Nat} {n : Node} (h : n.Shaped m e a) : n.addr = a := by
  cases n <;> exact h.2.1

theorem Node.Shaped.min_le {m e a : Nat} {n : Node} (h : n.Shaped m e a) : m ≤ e := by
  cases n with
  | leaf => exact h.1 ▸ h.2.2
  | split => exact h.1 ▸ Nat.le_of_lt h.2.2.1

/-- A tree of the right shape has at most the records of a complete tree (20_memory.md R59). -/
theorem Node.Shaped.count_le {m e a : Nat} {n : Node} (h : n.Shaped m e a) : n.count + 1 ≤ 2 ^ (e - m + 1) := by
  induction n generalizing e a with
  | leaf =>
    have := Nat.one_le_two_pow (n := e - m)
    simp only [Node.count, Nat.pow_succ]
    omega
  | split e' a' l r ihl ihr =>
    obtain ⟨rfl, rfl, hm, _, hl, hr⟩ := h
    have h1 := ihl hl
    have h2 := ihr hr
    rw [show e' - m + 1 = (e' - 1 - m + 1) + 1 by omega, Nat.pow_succ]
    simp only [Node.count]
    omega

/-! ## Allocation -/

theorem carve_not_free (k a d : Nat) : (carve k a d).isFreeLeaf = false := by
  cases d <;> rfl

theorem carve_shaped {m k : Nat} (hm : m ≤ k) (a d : Nat) : (carve k a d).Shaped m (k + d) a := by
  induction d with
  | zero => exact ⟨rfl, rfl, hm⟩
  | succ d ih =>
    refine ⟨rfl, rfl, by omega, fun h => ?_, ih, rfl, rfl, by omega⟩
    simp [carve_not_free] at h

theorem carve_count (k a d : Nat) : (carve k a d).count = 1 + 2 * d := by
  induction d with
  | zero => rfl
  | succ d ih => simp only [carve, Node.count, ih]; omega

theorem carve_allocatedLeaves (k a d : Nat) : (carve k a d).allocatedLeaves = [(a, k)] := by
  induction d with
  | zero => rfl
  | succ d ih => simp [carve, Node.allocatedLeaves, ih]

/-- Everything a successful search does to a tree of the right shape (20_memory.md R61, R62). -/
theorem Node.search_some {m k e a r splits : Nat} {n n' : Node} (hn : n.Shaped m e a) (hm : m ≤ k)
    (h : n.search k = some (r, n', splits)) :
    n'.Shaped m e a ∧ n'.isFreeLeaf = false ∧ n'.count = n.count + 2 * splits ∧
      ∀ x, x ∈ n'.allocatedLeaves ↔ x ∈ n.allocatedLeaves ∨ x = (r, k) := by
  induction n generalizing e a r n' splits with
  | leaf e' a' allocated =>
    obtain ⟨rfl, rfl, _⟩ := hn
    simp only [Node.search] at h
    split at h
    · exact nomatch h
    · next hk =>
      split at h
      · exact nomatch h
      · next hal =>
        obtain ⟨rfl, h2⟩ := Prod.mk.inj (Option.some.inj h)
        obtain ⟨rfl, rfl⟩ := Prod.mk.inj h2
        have hs := carve_shaped hm a' (e' - k)
        rw [Nat.add_sub_cancel' (by omega)] at hs
        refine ⟨hs, carve_not_free _ _ _, ?_, fun x => ?_⟩
        · rw [carve_count, Node.count]
        · simp [carve_allocatedLeaves, Node.allocatedLeaves, hal]
  | split e' a' l rt ihl ihr =>
    obtain ⟨rfl, rfl, hme, hfree, hl, hr⟩ := hn
    simp only [Node.search] at h
    split at h
    · exact nomatch h
    · split at h
      · next f l' c hls =>
        obtain ⟨rfl, h2⟩ := Prod.mk.inj (Option.some.inj h)
        obtain ⟨rfl, rfl⟩ := Prod.mk.inj h2
        obtain ⟨h3, h4, h5, h6⟩ := ihl hl hls
        refine ⟨⟨rfl, rfl, hme, fun hb => ?_, h3, hr⟩, rfl, ?_, fun x => ?_⟩
        · rw [h4] at hb
          exact nomatch hb.1
        · simp only [Node.count, h5]
          omega
        · simp only [Node.allocatedLeaves, List.mem_append, h6]
          tauto
      · split at h
        · next f r' c hrs =>
          obtain ⟨rfl, h2⟩ := Prod.mk.inj (Option.some.inj h)
          obtain ⟨rfl, rfl⟩ := Prod.mk.inj h2
          obtain ⟨h3, h4, h5, h6⟩ := ihr hr hrs
          refine ⟨⟨rfl, rfl, hme, fun hb => ?_, hl, h3⟩, rfl, ?_, fun x => ?_⟩
          · rw [h4] at hb
            exact nomatch hb.2
          · simp only [Node.count, h5]
            omega
          · simp only [Node.allocatedLeaves, List.mem_append, h6]
            tauto
        · exact nomatch h

/-! ## Release -/

theorem mergeNode_spec {m e a : Nat} {l r : Node} (hm : m < e) (hl : l.Shaped m (e - 1) a)
    (hr : r.Shaped m (e - 1) (a + 2 ^ (e - 1))) :
    (mergeNode e a l r).1.Shaped m e a ∧
      (mergeNode e a l r).1.count + (mergeNode e a l r).2 = l.count + r.count + 1 := by
  unfold mergeNode
  split
  · next h =>
    rw [Bool.and_eq_true] at h
    cases l with
    | split => exact nomatch h.1
    | leaf =>
      cases r with
      | split => exact nomatch h.2
      | leaf => exact ⟨⟨rfl, rfl, by omega⟩, rfl⟩
  · next h =>
    rw [Bool.and_eq_true] at h
    exact ⟨⟨rfl, rfl, hm, h, hl, hr⟩, rfl⟩

theorem releaseLeaf_ok {m e a b : Nat} {n n' : Node} (hn : n.Shaped m e a) (h : releaseLeaf n b = .ok n') :
    n = .leaf e a true ∧ b = a ∧ n' = .leaf e a false := by
  unfold releaseLeaf at h
  split at h
  · obtain ⟨rfl, rfl, _⟩ := hn
    split at h
    · next hb => exact ⟨rfl, hb.symm, (Except.ok.inj h).symm⟩
    · exact nomatch h
  · exact nomatch h
  · exact nomatch h

/-- A successful return keeps the shape and loses no record (20_memory.md R63, R64). -/
theorem Node.giveBack_ok {m e a b k c : Nat} {n n' : Node} (hn : n.Shaped m e a)
    (h : n.giveBack b k = .ok (n', c)) : n'.Shaped m e a ∧ n'.count + c = n.count := by
  induction n generalizing e a n' c with
  | leaf =>
    simp only [Node.giveBack] at h
    split at h <;> exact nomatch h
  | split e' a' l r ihl ihr =>
    obtain ⟨rfl, rfl, hme, hfree, hl, hr⟩ := hn
    simp only [Node.giveBack] at h
    split at h
    · exact nomatch h
    · split at h
      · split at h
        · split at h
          · next l' hrel =>
            obtain ⟨rfl, _, rfl⟩ := releaseLeaf_ok hl hrel
            have := mergeNode_spec (l := .leaf (e' - 1) a' false) hme ⟨rfl, rfl, hl.2.2⟩ hr
            rwa [Except.ok.inj h] at this
          · exact nomatch h
        · split at h
          · next l' c' hg =>
            obtain ⟨h3, h4⟩ := ihl hl hg
            obtain ⟨rfl, rfl⟩ := Prod.mk.inj (Except.ok.inj h)
            obtain ⟨h5, h6⟩ := mergeNode_spec hme h3 hr
            exact ⟨h5, by simp only [Node.count]; omega⟩
          · exact nomatch h
      · split at h
        · split at h
          · split at h
            · next r' hrel =>
              obtain ⟨rfl, _, rfl⟩ := releaseLeaf_ok hr hrel
              have := mergeNode_spec (r := .leaf (e' - 1) (a' + 2 ^ (e' - 1)) false) hme hl ⟨rfl, rfl, hr.2.2⟩
              rwa [Except.ok.inj h] at this
            · exact nomatch h
          · split at h
            · next r' c' hg =>
              obtain ⟨h3, h4⟩ := ihr hr hg
              obtain ⟨rfl, rfl⟩ := Prod.mk.inj (Except.ok.inj h)
              obtain ⟨h5, h6⟩ := mergeNode_spec hme hl h3
              exact ⟨h5, by simp only [Node.count]; omega⟩
            · exact nomatch h
        · exact nomatch h

end Sys2Proof.Machine
end

