-- ==== Sys2Proof/Laws/Float.lean ====
section
/-! SUPPORT. What the two formats' constants are, what rounding can answer, and what each operation does on finite
operands (00_scope.md R11, 42_arithmetic.md R104). -/

namespace Sys2Proof.Machine

/-! ## The constants of the formats -/

@[simp] theorem binary32_unitExp : binary32.unitExp = 149 := rfl
@[simp] theorem binary64_unitExp : binary64.unitExp = 1074 := rfl
@[simp] theorem binary32_infBits : binary32.infBits = 0x7F800000 := by decide
@[simp] theorem binary64_infBits : binary64.infBits = 0x7FF0000000000000 := by decide
@[simp] theorem binary32_signBit : binary32.signBit = 2 ^ 31 := rfl
@[simp] theorem binary64_signBit : binary64.signBit = 2 ^ 63 := rfl

/-! ## Signs -/

@[simp] theorem withSign_false (F : FloatFormat) (mag : Nat) : F.withSign false mag = mag := rfl
@[simp] theorem withSign_true (F : FloatFormat) (mag : Nat) : F.withSign true mag = F.signBit + mag := rfl
@[simp] theorem signedMag_zero (neg : Bool) : signedMag neg 0 = 0 := by cases neg <;> rfl
@[simp] theorem signedMag_natAbs (neg : Bool) (mag : Nat) : (signedMag neg mag).natAbs = mag := by
  cases neg <;> simp [signedMag]
theorem signedMag_not (neg : Bool) (mag : Nat) : signedMag (!neg) mag = -signedMag neg mag := by
  cases neg <;> simp [signedMag]

/-! ## Rounding -/

@[simp] theorem roundHalfEven_zero (den : Nat) : roundHalfEven 0 den = 0 := by
  by_cases h : den = 0 <;> simp [roundHalfEven, h]

/-- Rounding to a whole number errs by at most half a unit, and a tie leaves it even. -/
theorem roundHalfEven_spec (num den : Nat) (h : 0 < den) :
    2 * (roundHalfEven num den * den) ≤ 2 * num + den ∧ 2 * num ≤ 2 * (roundHalfEven num den * den) + den ∧
      (2 * (roundHalfEven num den * den) = 2 * num + den ∨ 2 * num = 2 * (roundHalfEven num den * den) + den →
        roundHalfEven num den % 2 = 0) := by
  have hdiv := Nat.div_add_mod' num den
  have hmod := Nat.mod_lt num h
  simp only [roundHalfEven]
  split
  · next hup => rw [Nat.add_mul, Nat.one_mul]; omega
  · next hdown => omega

/-- A rounded magnitude is the pattern of a finite magnitude or of infinity, never of a NaN. -/
theorem roundMag_le_infBits (F : FloatFormat) (num den : Nat) : F.roundMag num den ≤ F.infBits :=
  Nat.min_le_right _ _

@[simp] theorem roundMag_zero (F : FloatFormat) (den : Nat) : F.roundMag 0 den = 0 := by
  simp [FloatFormat.roundMag]

/-! ## The operations on finite operands -/

theorem add_finite (F : FloatFormat) (n m : Bool) (x y : Nat) :
    F.add (.finite n x) (.finite m y) =
      if signedMag n x + signedMag m y = 0 then some (F.withSign (n && m) 0)
      else some (F.withSign (decide (signedMag n x + signedMag m y < 0))
        (F.roundMag (signedMag n x + signedMag m y).natAbs 1)) := rfl

theorem sub_finite (F : FloatFormat) (n m : Bool) (x y : Nat) :
    F.sub (.finite n x) (.finite m y) = F.add (.finite n x) (.finite (!m) y) := rfl

theorem mul_finite (F : FloatFormat) (n m : Bool) (x y : Nat) :
    F.mul (.finite n x) (.finite m y) = some (F.withSign (n ^^ m) (F.roundMag (x * y) (2 ^ F.unitExp))) := rfl

theorem div_finite (F : FloatFormat) (n m : Bool) (x y : Nat) (h : y ≠ 0) :
    F.div (.finite n x) (.finite m y) = some (F.withSign (n ^^ m) (F.roundMag (x * 2 ^ F.unitExp) y)) := by
  simp [FloatFormat.div, h]

end Sys2Proof.Machine
end

