-- ==== Sys2Proof/Laws/Memory.lean ====
section
/-! SUPPORT. The slab as data: a read after a write, bytes a write leaves alone, and the canonical form that every
memory operation keeps (20_memory.md R46, R47, R67). -/

namespace Sys2Proof.Machine

/-! ## Cells -/

theorem lookupCell_insertCell (cells : List Host.Cell) (a x : Nat) (v : Byte) :
    lookupCell (insertCell cells a v) x = if a = x then some v else lookupCell cells x := by
  induction cells with
  | nil => simp [insertCell, lookupCell]
  | cons c rest ih =>
    obtain ⟨k, b⟩ := c
    simp only [insertCell]
    split
    · simp [lookupCell]
    · split
      · subst_vars
        simp only [lookupCell]
        split <;> rfl
      · simp only [lookupCell, ih]
        split <;> split <;> first | rfl | omega

/-- The addresses of the cells after an insertion: the old ones and the new one. -/
theorem mem_insertCell_addr (cells : List Host.Cell) (a : Nat) (v : Byte) (c : Host.Cell)
    (h : c ∈ insertCell cells a v) : c.1 = a ∨ c ∈ cells := by
  induction cells with
  | nil => simp_all [insertCell]
  | cons d rest ih =>
    obtain ⟨k, b⟩ := d
    simp only [insertCell] at h
    split at h
    · rcases List.mem_cons.mp h with rfl | h
      · exact .inl rfl
      · exact .inr h
    · split at h
      · rcases List.mem_cons.mp h with rfl | h
        · exact .inl rfl
        · exact .inr (List.mem_cons_of_mem _ h)
      · rcases List.mem_cons.mp h with rfl | h
        · exact .inr List.mem_cons_self
        · exact (ih h).imp id (List.mem_cons_of_mem _)

/-- An insertion keeps the addresses strictly rising. -/
theorem insertCell_rising (cells : List Host.Cell) (a : Nat) (v : Byte)
    (h : cells.Pairwise (fun x y => x.1 < y.1)) :
    (insertCell cells a v).Pairwise (fun x y => x.1 < y.1) := by
  induction cells with
  | nil => simp [insertCell]
  | cons d rest ih =>
    obtain ⟨k, b⟩ := d
    obtain ⟨hk, hrest⟩ := List.pairwise_cons.mp h
    simp only [insertCell]
    split
    next hak =>
      refine List.pairwise_cons.mpr ⟨fun c hc => ?_, h⟩
      rcases List.mem_cons.mp hc with rfl | hc
      · exact hak
      · exact Nat.lt_trans hak (hk c hc)
    next =>
      split
      next hak => exact List.pairwise_cons.mpr ⟨fun c hc => hak ▸ hk c hc, hrest⟩
      next =>
        refine List.pairwise_cons.mpr ⟨fun c hc => ?_, ih hrest⟩
        rcases mem_insertCell_addr rest a v c hc with h' | h'
        · show k < c.1
          omega
        · exact hk c h'

/-! ## One byte -/

@[simp] theorem Memory.byte_setByte (m : Memory) (a x : Nat) (v : Byte) :
    (m.setByte a v).byte x = if a = x then v else m.byte x := by
  simp only [Memory.byte, Memory.setByte, lookupCell_insertCell]
  by_cases h : a = x <;> simp [h]

theorem Memory.setByte_wf (m : Memory) (a : Nat) (v : Byte) (h : m.wf) : (m.setByte a v).wf :=
  insertCell_rising m.cells a v h

/-! ## Several bytes -/

/-- A write leaves every byte outside its range alone. -/
theorem Memory.byte_writeLE_outside (n : Nat) (m : Memory) (a v x : Nat) (h : x < a ∨ a + n ≤ x) :
    (m.writeLE a v n).byte x = m.byte x := by
  induction n generalizing m a v with
  | zero => rfl
  | succ n ih =>
    rw [Memory.writeLE, ih _ _ _ (by omega), Memory.byte_setByte, if_neg (by omega)]

/-- Byte j of a write is byte j of the value. -/
theorem Memory.byte_writeLE_inside (n : Nat) (m : Memory) (a v j : Nat) (h : j < n) :
    (m.writeLE a v n).byte (a + j) = BitVec.ofNat 8 (v / 256 ^ j) := by
  induction n generalizing m a v j with
  | zero => omega
  | succ n ih =>
    rw [Memory.writeLE]
    cases j with
    | zero =>
      rw [Memory.byte_writeLE_outside n _ _ _ _ (by omega), Memory.byte_setByte]
      simp
    | succ j =>
      have := ih (m.setByte a (BitVec.ofNat 8 v)) (a + 1) (v / 256) j (by omega)
      rw [show a + (j + 1) = a + 1 + j by omega, this, Nat.div_div_eq_div_mul, Nat.pow_succ, Nat.mul_comm]

/-- A read depends on the bytes of its range alone. -/
theorem Memory.readLE_congr (n : Nat) (m m' : Memory) (a : Nat)
    (h : ∀ j, j < n → m.byte (a + j) = m'.byte (a + j)) : m.readLE a n = m'.readLE a n := by
  induction n generalizing a with
  | zero => rfl
  | succ n ih =>
    rw [Memory.readLE, Memory.readLE, show m.byte a = m'.byte a from h 0 (by omega),
      ih (a + 1) (fun j hj => by
        have := h (j + 1) (by omega)
        rwa [show a + (j + 1) = a + 1 + j by omega] at this)]

/-- A read of n bytes is below 256^n. -/
theorem Memory.readLE_lt (n : Nat) (m : Memory) (a : Nat) : m.readLE a n < 256 ^ n := by
  induction n generalizing a with
  | zero => simp [Memory.readLE]
  | succ n ih =>
    have h1 := (m.byte a).isLt
    have h2 := ih (a + 1)
    rw [Memory.readLE, Nat.pow_succ]
    omega

/-- A read is the little-endian sum of its bytes (20_memory.md R46). -/
theorem Memory.readLE_eq_sum (n : Nat) (m : Memory) (a : Nat) :
    m.readLE a n = ∑ j ∈ Finset.range n, (m.byte (a + j)).toNat * 2 ^ (8 * j) := by
  induction n generalizing a with
  | zero => rfl
  | succ n ih =>
    rw [Memory.readLE, ih, Finset.sum_range_succ', Finset.mul_sum]
    simp only [Nat.mul_zero, Nat.pow_zero, Nat.mul_one, Nat.add_zero]
    rw [Nat.add_comm]
    congr 1
    apply Finset.sum_congr rfl
    intro j _
    rw [show a + 1 + j = a + (j + 1) by omega, show 8 * (j + 1) = 8 * j + 8 by omega, Nat.pow_add]
    ring

/-- A read after a write to the same place gives the low bytes of the value. -/
theorem Memory.readLE_writeLE (n : Nat) (m : Memory) (a v : Nat) :
    (m.writeLE a v n).readLE a n = v % 256 ^ n := by
  induction n generalizing m a v with
  | zero => simp [Memory.readLE, Nat.mod_one]
  | succ n ih =>
    rw [Memory.readLE, Memory.writeLE, ih, Memory.byte_writeLE_outside n _ _ _ _ (by omega), Memory.byte_setByte]
    rw [if_pos rfl, BitVec.toNat_ofNat, show 256 ^ (n + 1) = 256 * 256 ^ n by rw [Nat.pow_succ, Nat.mul_comm],
      Nat.mod_mul]

/-- A read is not touched by a write elsewhere. -/
theorem Memory.readLE_writeLE_disjoint (n k : Nat) (m : Memory) (a b v : Nat) (h : a + n ≤ b ∨ b + k ≤ a) :
    (m.writeLE b v k).readLE a n = m.readLE a n :=
  Memory.readLE_congr n _ _ a (fun j hj => Memory.byte_writeLE_outside k m b v (a + j) (by omega))

/-- A write keeps the canonical form. -/
theorem Memory.writeLE_wf (n : Nat) (m : Memory) (a v : Nat) (h : m.wf) : (m.writeLE a v n).wf := by
  induction n generalizing m a v with
  | zero => exact h
  | succ n ih => exact ih _ _ _ (Memory.setByte_wf m a _ h)

/-- A write lists no address outside its range that was not listed. -/
theorem Memory.mem_writeLE_addr (n : Nat) (m : Memory) (a v : Nat) (c : Host.Cell)
    (h : c ∈ (m.writeLE a v n).cells) : (a ≤ c.1 ∧ c.1 < a + n) ∨ c ∈ m.cells := by
  induction n generalizing m a v with
  | zero => exact .inr h
  | succ n ih =>
    rcases ih _ _ _ h with h' | h'
    · exact .inl (by omega)
    · rcases mem_insertCell_addr m.cells a _ c h' with h'' | h''
      · exact .inl (by omega)
      · exact .inr h''

/-- The memory right after reset has the canonical form. -/
theorem reset_slab_wf (cfg : Config) : (State.resetWith cfg).slab.wf := List.Pairwise.nil

end Sys2Proof.Machine
end

