-- ==== Sys2Proof/Laws/State.lean ====
section
/-! SUPPORT. One lemma per field per update of the state, true by definition, and what reading a register or its tag
gives after an update, so that no proof unfolds a record update. -/

namespace Sys2Proof.Machine

/-! ## setVal -/

@[simp] theorem State.setVal_cfg (s : State) (i : Reg) (v : Cell64) : (s.setVal i v).cfg = s.cfg := rfl
@[simp] theorem State.setVal_code (s : State) (i : Reg) (v : Cell64) : (s.setVal i v).code = s.code := rfl
@[simp] theorem State.setVal_lineTable (s : State) (i : Reg) (v : Cell64) : (s.setVal i v).lineTable = s.lineTable := rfl
@[simp] theorem State.setVal_metadata (s : State) (i : Reg) (v : Cell64) : (s.setVal i v).metadata = s.metadata := rfl
@[simp] theorem State.setVal_ip (s : State) (i : Reg) (v : Cell64) : (s.setVal i v).ip = s.ip := rfl
@[simp] theorem State.setVal_regs (s : State) (i : Reg) (v : Cell64) : (s.setVal i v).regs = s.regs.set i.toNat v i.isLt := rfl
@[simp] theorem State.setVal_tags (s : State) (i : Reg) (v : Cell64) : (s.setVal i v).tags = s.tags := rfl
@[simp] theorem State.setVal_flag (s : State) (i : Reg) (v : Cell64) : (s.setVal i v).flag = s.flag := rfl
@[simp] theorem State.setVal_stack (s : State) (i : Reg) (v : Cell64) : (s.setVal i v).stack = s.stack := rfl
@[simp] theorem State.setVal_pointerSlots (s : State) (i : Reg) (v : Cell64) : (s.setVal i v).pointerSlots = s.pointerSlots := rfl
@[simp] theorem State.setVal_slab (s : State) (i : Reg) (v : Cell64) : (s.setVal i v).slab = s.slab := rfl
@[simp] theorem State.setVal_tree (s : State) (i : Reg) (v : Cell64) : (s.setVal i v).tree = s.tree := rfl
@[simp] theorem State.setVal_pool (s : State) (i : Reg) (v : Cell64) : (s.setVal i v).pool = s.pool := rfl
@[simp] theorem State.setVal_status (s : State) (i : Reg) (v : Cell64) : (s.setVal i v).status = s.status := rfl
@[simp] theorem State.setVal_cause (s : State) (i : Reg) (v : Cell64) : (s.setVal i v).cause = s.cause := rfl
@[simp] theorem State.setVal_faultIp (s : State) (i : Reg) (v : Cell64) : (s.setVal i v).faultIp = s.faultIp := rfl
@[simp] theorem State.setVal_faultLine (s : State) (i : Reg) (v : Cell64) : (s.setVal i v).faultLine = s.faultLine := rfl
@[simp] theorem State.setVal_out (s : State) (i : Reg) (v : Cell64) : (s.setVal i v).out = s.out := rfl
@[simp] theorem State.setVal_diag (s : State) (i : Reg) (v : Cell64) : (s.setVal i v).diag = s.diag := rfl

/-! ## setTagBits -/

@[simp] theorem State.setTagBits_cfg (s : State) (i : Reg) (low : BitVec 5) : (s.setTagBits i low).cfg = s.cfg := rfl
@[simp] theorem State.setTagBits_code (s : State) (i : Reg) (low : BitVec 5) : (s.setTagBits i low).code = s.code := rfl
@[simp] theorem State.setTagBits_lineTable (s : State) (i : Reg) (low : BitVec 5) : (s.setTagBits i low).lineTable = s.lineTable := rfl
@[simp] theorem State.setTagBits_metadata (s : State) (i : Reg) (low : BitVec 5) : (s.setTagBits i low).metadata = s.metadata := rfl
@[simp] theorem State.setTagBits_ip (s : State) (i : Reg) (low : BitVec 5) : (s.setTagBits i low).ip = s.ip := rfl
@[simp] theorem State.setTagBits_regs (s : State) (i : Reg) (low : BitVec 5) : (s.setTagBits i low).regs = s.regs := rfl
@[simp] theorem State.setTagBits_tags (s : State) (i : Reg) (low : BitVec 5) : (s.setTagBits i low).tags = s.tags.set i.toNat (retag (s.tag i) low) i.isLt := rfl
@[simp] theorem State.setTagBits_flag (s : State) (i : Reg) (low : BitVec 5) : (s.setTagBits i low).flag = s.flag := rfl
@[simp] theorem State.setTagBits_stack (s : State) (i : Reg) (low : BitVec 5) : (s.setTagBits i low).stack = s.stack := rfl
@[simp] theorem State.setTagBits_pointerSlots (s : State) (i : Reg) (low : BitVec 5) : (s.setTagBits i low).pointerSlots = s.pointerSlots := rfl
@[simp] theorem State.setTagBits_slab (s : State) (i : Reg) (low : BitVec 5) : (s.setTagBits i low).slab = s.slab := rfl
@[simp] theorem State.setTagBits_tree (s : State) (i : Reg) (low : BitVec 5) : (s.setTagBits i low).tree = s.tree := rfl
@[simp] theorem State.setTagBits_pool (s : State) (i : Reg) (low : BitVec 5) : (s.setTagBits i low).pool = s.pool := rfl
@[simp] theorem State.setTagBits_status (s : State) (i : Reg) (low : BitVec 5) : (s.setTagBits i low).status = s.status := rfl
@[simp] theorem State.setTagBits_cause (s : State) (i : Reg) (low : BitVec 5) : (s.setTagBits i low).cause = s.cause := rfl
@[simp] theorem State.setTagBits_faultIp (s : State) (i : Reg) (low : BitVec 5) : (s.setTagBits i low).faultIp = s.faultIp := rfl
@[simp] theorem State.setTagBits_faultLine (s : State) (i : Reg) (low : BitVec 5) : (s.setTagBits i low).faultLine = s.faultLine := rfl
@[simp] theorem State.setTagBits_out (s : State) (i : Reg) (low : BitVec 5) : (s.setTagBits i low).out = s.out := rfl
@[simp] theorem State.setTagBits_diag (s : State) (i : Reg) (low : BitVec 5) : (s.setTagBits i low).diag = s.diag := rfl

/-! ## setReg -/

@[simp] theorem State.setReg_cfg (s : State) (i : Reg) (v : Cell64) (kind : TagKind) : (s.setReg i v kind).cfg = s.cfg := rfl
@[simp] theorem State.setReg_code (s : State) (i : Reg) (v : Cell64) (kind : TagKind) : (s.setReg i v kind).code = s.code := rfl
@[simp] theorem State.setReg_lineTable (s : State) (i : Reg) (v : Cell64) (kind : TagKind) : (s.setReg i v kind).lineTable = s.lineTable := rfl
@[simp] theorem State.setReg_metadata (s : State) (i : Reg) (v : Cell64) (kind : TagKind) : (s.setReg i v kind).metadata = s.metadata := rfl
@[simp] theorem State.setReg_ip (s : State) (i : Reg) (v : Cell64) (kind : TagKind) : (s.setReg i v kind).ip = s.ip := rfl
@[simp] theorem State.setReg_regs (s : State) (i : Reg) (v : Cell64) (kind : TagKind) : (s.setReg i v kind).regs = s.regs.set i.toNat v i.isLt := rfl
@[simp] theorem State.setReg_tags (s : State) (i : Reg) (v : Cell64) (kind : TagKind) : (s.setReg i v kind).tags = s.tags.set i.toNat (retag (s.tag i) kind.code) i.isLt := rfl
@[simp] theorem State.setReg_flag (s : State) (i : Reg) (v : Cell64) (kind : TagKind) : (s.setReg i v kind).flag = s.flag := rfl
@[simp] theorem State.setReg_stack (s : State) (i : Reg) (v : Cell64) (kind : TagKind) : (s.setReg i v kind).stack = s.stack := rfl
@[simp] theorem State.setReg_pointerSlots (s : State) (i : Reg) (v : Cell64) (kind : TagKind) : (s.setReg i v kind).pointerSlots = s.pointerSlots := rfl
@[simp] theorem State.setReg_slab (s : State) (i : Reg) (v : Cell64) (kind : TagKind) : (s.setReg i v kind).slab = s.slab := rfl
@[simp] theorem State.setReg_tree (s : State) (i : Reg) (v : Cell64) (kind : TagKind) : (s.setReg i v kind).tree = s.tree := rfl
@[simp] theorem State.setReg_pool (s : State) (i : Reg) (v : Cell64) (kind : TagKind) : (s.setReg i v kind).pool = s.pool := rfl
@[simp] theorem State.setReg_status (s : State) (i : Reg) (v : Cell64) (kind : TagKind) : (s.setReg i v kind).status = s.status := rfl
@[simp] theorem State.setReg_cause (s : State) (i : Reg) (v : Cell64) (kind : TagKind) : (s.setReg i v kind).cause = s.cause := rfl
@[simp] theorem State.setReg_faultIp (s : State) (i : Reg) (v : Cell64) (kind : TagKind) : (s.setReg i v kind).faultIp = s.faultIp := rfl
@[simp] theorem State.setReg_faultLine (s : State) (i : Reg) (v : Cell64) (kind : TagKind) : (s.setReg i v kind).faultLine = s.faultLine := rfl
@[simp] theorem State.setReg_out (s : State) (i : Reg) (v : Cell64) (kind : TagKind) : (s.setReg i v kind).out = s.out := rfl
@[simp] theorem State.setReg_diag (s : State) (i : Reg) (v : Cell64) (kind : TagKind) : (s.setReg i v kind).diag = s.diag := rfl

/-! ## copyReg -/

@[simp] theorem State.copyReg_cfg (s : State) (i : Reg) (v : Cell64) (t : Tag) : (s.copyReg i v t).cfg = s.cfg := rfl
@[simp] theorem State.copyReg_code (s : State) (i : Reg) (v : Cell64) (t : Tag) : (s.copyReg i v t).code = s.code := rfl
@[simp] theorem State.copyReg_lineTable (s : State) (i : Reg) (v : Cell64) (t : Tag) : (s.copyReg i v t).lineTable = s.lineTable := rfl
@[simp] theorem State.copyReg_metadata (s : State) (i : Reg) (v : Cell64) (t : Tag) : (s.copyReg i v t).metadata = s.metadata := rfl
@[simp] theorem State.copyReg_ip (s : State) (i : Reg) (v : Cell64) (t : Tag) : (s.copyReg i v t).ip = s.ip := rfl
@[simp] theorem State.copyReg_regs (s : State) (i : Reg) (v : Cell64) (t : Tag) : (s.copyReg i v t).regs = s.regs.set i.toNat v i.isLt := rfl
@[simp] theorem State.copyReg_tags (s : State) (i : Reg) (v : Cell64) (t : Tag) : (s.copyReg i v t).tags = s.tags.set i.toNat (retag (s.tag i) (t.extractLsb' 0 5)) i.isLt := rfl
@[simp] theorem State.copyReg_flag (s : State) (i : Reg) (v : Cell64) (t : Tag) : (s.copyReg i v t).flag = s.flag := rfl
@[simp] theorem State.copyReg_stack (s : State) (i : Reg) (v : Cell64) (t : Tag) : (s.copyReg i v t).stack = s.stack := rfl
@[simp] theorem State.copyReg_pointerSlots (s : State) (i : Reg) (v : Cell64) (t : Tag) : (s.copyReg i v t).pointerSlots = s.pointerSlots := rfl
@[simp] theorem State.copyReg_slab (s : State) (i : Reg) (v : Cell64) (t : Tag) : (s.copyReg i v t).slab = s.slab := rfl
@[simp] theorem State.copyReg_tree (s : State) (i : Reg) (v : Cell64) (t : Tag) : (s.copyReg i v t).tree = s.tree := rfl
@[simp] theorem State.copyReg_pool (s : State) (i : Reg) (v : Cell64) (t : Tag) : (s.copyReg i v t).pool = s.pool := rfl
@[simp] theorem State.copyReg_status (s : State) (i : Reg) (v : Cell64) (t : Tag) : (s.copyReg i v t).status = s.status := rfl
@[simp] theorem State.copyReg_cause (s : State) (i : Reg) (v : Cell64) (t : Tag) : (s.copyReg i v t).cause = s.cause := rfl
@[simp] theorem State.copyReg_faultIp (s : State) (i : Reg) (v : Cell64) (t : Tag) : (s.copyReg i v t).faultIp = s.faultIp := rfl
@[simp] theorem State.copyReg_faultLine (s : State) (i : Reg) (v : Cell64) (t : Tag) : (s.copyReg i v t).faultLine = s.faultLine := rfl
@[simp] theorem State.copyReg_out (s : State) (i : Reg) (v : Cell64) (t : Tag) : (s.copyReg i v t).out = s.out := rfl
@[simp] theorem State.copyReg_diag (s : State) (i : Reg) (v : Cell64) (t : Tag) : (s.copyReg i v t).diag = s.diag := rfl

/-! ## setFlag -/

@[simp] theorem State.setFlag_cfg (s : State) (b : Bool) : (s.setFlag b).cfg = s.cfg := rfl
@[simp] theorem State.setFlag_code (s : State) (b : Bool) : (s.setFlag b).code = s.code := rfl
@[simp] theorem State.setFlag_lineTable (s : State) (b : Bool) : (s.setFlag b).lineTable = s.lineTable := rfl
@[simp] theorem State.setFlag_metadata (s : State) (b : Bool) : (s.setFlag b).metadata = s.metadata := rfl
@[simp] theorem State.setFlag_ip (s : State) (b : Bool) : (s.setFlag b).ip = s.ip := rfl
@[simp] theorem State.setFlag_regs (s : State) (b : Bool) : (s.setFlag b).regs = s.regs := rfl
@[simp] theorem State.setFlag_tags (s : State) (b : Bool) : (s.setFlag b).tags = s.tags := rfl
@[simp] theorem State.setFlag_flag (s : State) (b : Bool) : (s.setFlag b).flag = b := rfl
@[simp] theorem State.setFlag_stack (s : State) (b : Bool) : (s.setFlag b).stack = s.stack := rfl
@[simp] theorem State.setFlag_pointerSlots (s : State) (b : Bool) : (s.setFlag b).pointerSlots = s.pointerSlots := rfl
@[simp] theorem State.setFlag_slab (s : State) (b : Bool) : (s.setFlag b).slab = s.slab := rfl
@[simp] theorem State.setFlag_tree (s : State) (b : Bool) : (s.setFlag b).tree = s.tree := rfl
@[simp] theorem State.setFlag_pool (s : State) (b : Bool) : (s.setFlag b).pool = s.pool := rfl
@[simp] theorem State.setFlag_status (s : State) (b : Bool) : (s.setFlag b).status = s.status := rfl
@[simp] theorem State.setFlag_cause (s : State) (b : Bool) : (s.setFlag b).cause = s.cause := rfl
@[simp] theorem State.setFlag_faultIp (s : State) (b : Bool) : (s.setFlag b).faultIp = s.faultIp := rfl
@[simp] theorem State.setFlag_faultLine (s : State) (b : Bool) : (s.setFlag b).faultLine = s.faultLine := rfl
@[simp] theorem State.setFlag_out (s : State) (b : Bool) : (s.setFlag b).out = s.out := rfl
@[simp] theorem State.setFlag_diag (s : State) (b : Bool) : (s.setFlag b).diag = s.diag := rfl

/-! ## advance -/

@[simp] theorem State.advance_cfg (s : State) : s.advance.cfg = s.cfg := rfl
@[simp] theorem State.advance_code (s : State) : s.advance.code = s.code := rfl
@[simp] theorem State.advance_lineTable (s : State) : s.advance.lineTable = s.lineTable := rfl
@[simp] theorem State.advance_metadata (s : State) : s.advance.metadata = s.metadata := rfl
@[simp] theorem State.advance_ip (s : State) : s.advance.ip = s.ip + 1 := rfl
@[simp] theorem State.advance_regs (s : State) : s.advance.regs = s.regs := rfl
@[simp] theorem State.advance_tags (s : State) : s.advance.tags = s.tags := rfl
@[simp] theorem State.advance_flag (s : State) : s.advance.flag = s.flag := rfl
@[simp] theorem State.advance_stack (s : State) : s.advance.stack = s.stack := rfl
@[simp] theorem State.advance_pointerSlots (s : State) : s.advance.pointerSlots = s.pointerSlots := rfl
@[simp] theorem State.advance_slab (s : State) : s.advance.slab = s.slab := rfl
@[simp] theorem State.advance_tree (s : State) : s.advance.tree = s.tree := rfl
@[simp] theorem State.advance_pool (s : State) : s.advance.pool = s.pool := rfl
@[simp] theorem State.advance_status (s : State) : s.advance.status = s.status := rfl
@[simp] theorem State.advance_cause (s : State) : s.advance.cause = s.cause := rfl
@[simp] theorem State.advance_faultIp (s : State) : s.advance.faultIp = s.faultIp := rfl
@[simp] theorem State.advance_faultLine (s : State) : s.advance.faultLine = s.faultLine := rfl
@[simp] theorem State.advance_out (s : State) : s.advance.out = s.out := rfl
@[simp] theorem State.advance_diag (s : State) : s.advance.diag = s.diag := rfl

/-! ## jumpTo -/

@[simp] theorem State.jumpTo_cfg (s : State) (t : Nat) : (s.jumpTo t).cfg = s.cfg := rfl
@[simp] theorem State.jumpTo_code (s : State) (t : Nat) : (s.jumpTo t).code = s.code := rfl
@[simp] theorem State.jumpTo_lineTable (s : State) (t : Nat) : (s.jumpTo t).lineTable = s.lineTable := rfl
@[simp] theorem State.jumpTo_metadata (s : State) (t : Nat) : (s.jumpTo t).metadata = s.metadata := rfl
@[simp] theorem State.jumpTo_ip (s : State) (t : Nat) : (s.jumpTo t).ip = BitVec.ofNat 25 t := rfl
@[simp] theorem State.jumpTo_regs (s : State) (t : Nat) : (s.jumpTo t).regs = s.regs := rfl
@[simp] theorem State.jumpTo_tags (s : State) (t : Nat) : (s.jumpTo t).tags = s.tags := rfl
@[simp] theorem State.jumpTo_flag (s : State) (t : Nat) : (s.jumpTo t).flag = s.flag := rfl
@[simp] theorem State.jumpTo_stack (s : State) (t : Nat) : (s.jumpTo t).stack = s.stack := rfl
@[simp] theorem State.jumpTo_pointerSlots (s : State) (t : Nat) : (s.jumpTo t).pointerSlots = s.pointerSlots := rfl
@[simp] theorem State.jumpTo_slab (s : State) (t : Nat) : (s.jumpTo t).slab = s.slab := rfl
@[simp] theorem State.jumpTo_tree (s : State) (t : Nat) : (s.jumpTo t).tree = s.tree := rfl
@[simp] theorem State.jumpTo_pool (s : State) (t : Nat) : (s.jumpTo t).pool = s.pool := rfl
@[simp] theorem State.jumpTo_status (s : State) (t : Nat) : (s.jumpTo t).status = s.status := rfl
@[simp] theorem State.jumpTo_cause (s : State) (t : Nat) : (s.jumpTo t).cause = s.cause := rfl
@[simp] theorem State.jumpTo_faultIp (s : State) (t : Nat) : (s.jumpTo t).faultIp = s.faultIp := rfl
@[simp] theorem State.jumpTo_faultLine (s : State) (t : Nat) : (s.jumpTo t).faultLine = s.faultLine := rfl
@[simp] theorem State.jumpTo_out (s : State) (t : Nat) : (s.jumpTo t).out = s.out := rfl
@[simp] theorem State.jumpTo_diag (s : State) (t : Nat) : (s.jumpTo t).diag = s.diag := rfl

/-! ## truncate -/

@[simp] theorem State.truncate_cfg (s : State) (n : Nat) : (s.truncate n).cfg = s.cfg := rfl
@[simp] theorem State.truncate_code (s : State) (n : Nat) : (s.truncate n).code = s.code := rfl
@[simp] theorem State.truncate_lineTable (s : State) (n : Nat) : (s.truncate n).lineTable = s.lineTable := rfl
@[simp] theorem State.truncate_metadata (s : State) (n : Nat) : (s.truncate n).metadata = s.metadata := rfl
@[simp] theorem State.truncate_ip (s : State) (n : Nat) : (s.truncate n).ip = s.ip := rfl
@[simp] theorem State.truncate_regs (s : State) (n : Nat) : (s.truncate n).regs = s.regs := rfl
@[simp] theorem State.truncate_tags (s : State) (n : Nat) : (s.truncate n).tags = s.tags := rfl
@[simp] theorem State.truncate_flag (s : State) (n : Nat) : (s.truncate n).flag = s.flag := rfl
@[simp] theorem State.truncate_stack (s : State) (n : Nat) : (s.truncate n).stack = s.stack.take n := rfl
@[simp] theorem State.truncate_pointerSlots (s : State) (n : Nat) : (s.truncate n).pointerSlots = s.pointerSlots.filter (fun k => k < n) := rfl
@[simp] theorem State.truncate_slab (s : State) (n : Nat) : (s.truncate n).slab = s.slab := rfl
@[simp] theorem State.truncate_tree (s : State) (n : Nat) : (s.truncate n).tree = s.tree := rfl
@[simp] theorem State.truncate_pool (s : State) (n : Nat) : (s.truncate n).pool = s.pool := rfl
@[simp] theorem State.truncate_status (s : State) (n : Nat) : (s.truncate n).status = s.status := rfl
@[simp] theorem State.truncate_cause (s : State) (n : Nat) : (s.truncate n).cause = s.cause := rfl
@[simp] theorem State.truncate_faultIp (s : State) (n : Nat) : (s.truncate n).faultIp = s.faultIp := rfl
@[simp] theorem State.truncate_faultLine (s : State) (n : Nat) : (s.truncate n).faultLine = s.faultLine := rfl
@[simp] theorem State.truncate_out (s : State) (n : Nat) : (s.truncate n).out = s.out := rfl
@[simp] theorem State.truncate_diag (s : State) (n : Nat) : (s.truncate n).diag = s.diag := rfl

/-! ## writeSlot -/

@[simp] theorem State.writeSlot_cfg (s : State) (k : Nat) (v : Cell64) (t : Tag) : (s.writeSlot k v t).cfg = s.cfg := rfl
@[simp] theorem State.writeSlot_code (s : State) (k : Nat) (v : Cell64) (t : Tag) : (s.writeSlot k v t).code = s.code := rfl
@[simp] theorem State.writeSlot_lineTable (s : State) (k : Nat) (v : Cell64) (t : Tag) : (s.writeSlot k v t).lineTable = s.lineTable := rfl
@[simp] theorem State.writeSlot_metadata (s : State) (k : Nat) (v : Cell64) (t : Tag) : (s.writeSlot k v t).metadata = s.metadata := rfl
@[simp] theorem State.writeSlot_ip (s : State) (k : Nat) (v : Cell64) (t : Tag) : (s.writeSlot k v t).ip = s.ip := rfl
@[simp] theorem State.writeSlot_regs (s : State) (k : Nat) (v : Cell64) (t : Tag) : (s.writeSlot k v t).regs = s.regs := rfl
@[simp] theorem State.writeSlot_tags (s : State) (k : Nat) (v : Cell64) (t : Tag) : (s.writeSlot k v t).tags = s.tags := rfl
@[simp] theorem State.writeSlot_flag (s : State) (k : Nat) (v : Cell64) (t : Tag) : (s.writeSlot k v t).flag = s.flag := rfl
@[simp] theorem State.writeSlot_stack (s : State) (k : Nat) (v : Cell64) (t : Tag) : (s.writeSlot k v t).stack = s.stack.set k { val := v, tag := slotTag t } := rfl
@[simp] theorem State.writeSlot_pointerSlots (s : State) (k : Nat) (v : Cell64) (t : Tag) : (s.writeSlot k v t).pointerSlots = markSlot k t s.pointerSlots := rfl
@[simp] theorem State.writeSlot_slab (s : State) (k : Nat) (v : Cell64) (t : Tag) : (s.writeSlot k v t).slab = s.slab := rfl
@[simp] theorem State.writeSlot_tree (s : State) (k : Nat) (v : Cell64) (t : Tag) : (s.writeSlot k v t).tree = s.tree := rfl
@[simp] theorem State.writeSlot_pool (s : State) (k : Nat) (v : Cell64) (t : Tag) : (s.writeSlot k v t).pool = s.pool := rfl
@[simp] theorem State.writeSlot_status (s : State) (k : Nat) (v : Cell64) (t : Tag) : (s.writeSlot k v t).status = s.status := rfl
@[simp] theorem State.writeSlot_cause (s : State) (k : Nat) (v : Cell64) (t : Tag) : (s.writeSlot k v t).cause = s.cause := rfl
@[simp] theorem State.writeSlot_faultIp (s : State) (k : Nat) (v : Cell64) (t : Tag) : (s.writeSlot k v t).faultIp = s.faultIp := rfl
@[simp] theorem State.writeSlot_faultLine (s : State) (k : Nat) (v : Cell64) (t : Tag) : (s.writeSlot k v t).faultLine = s.faultLine := rfl
@[simp] theorem State.writeSlot_out (s : State) (k : Nat) (v : Cell64) (t : Tag) : (s.writeSlot k v t).out = s.out := rfl
@[simp] theorem State.writeSlot_diag (s : State) (k : Nat) (v : Cell64) (t : Tag) : (s.writeSlot k v t).diag = s.diag := rfl

/-! ## emit -/

@[simp] theorem State.emit_cfg (s : State) (kind : OutKind) (bits : Cell64) : (s.emit kind bits).cfg = s.cfg := rfl
@[simp] theorem State.emit_code (s : State) (kind : OutKind) (bits : Cell64) : (s.emit kind bits).code = s.code := rfl
@[simp] theorem State.emit_lineTable (s : State) (kind : OutKind) (bits : Cell64) : (s.emit kind bits).lineTable = s.lineTable := rfl
@[simp] theorem State.emit_metadata (s : State) (kind : OutKind) (bits : Cell64) : (s.emit kind bits).metadata = s.metadata := rfl
@[simp] theorem State.emit_ip (s : State) (kind : OutKind) (bits : Cell64) : (s.emit kind bits).ip = s.ip := rfl
@[simp] theorem State.emit_regs (s : State) (kind : OutKind) (bits : Cell64) : (s.emit kind bits).regs = s.regs := rfl
@[simp] theorem State.emit_tags (s : State) (kind : OutKind) (bits : Cell64) : (s.emit kind bits).tags = s.tags := rfl
@[simp] theorem State.emit_flag (s : State) (kind : OutKind) (bits : Cell64) : (s.emit kind bits).flag = s.flag := rfl
@[simp] theorem State.emit_stack (s : State) (kind : OutKind) (bits : Cell64) : (s.emit kind bits).stack = s.stack := rfl
@[simp] theorem State.emit_pointerSlots (s : State) (kind : OutKind) (bits : Cell64) : (s.emit kind bits).pointerSlots = s.pointerSlots := rfl
@[simp] theorem State.emit_slab (s : State) (kind : OutKind) (bits : Cell64) : (s.emit kind bits).slab = s.slab := rfl
@[simp] theorem State.emit_tree (s : State) (kind : OutKind) (bits : Cell64) : (s.emit kind bits).tree = s.tree := rfl
@[simp] theorem State.emit_pool (s : State) (kind : OutKind) (bits : Cell64) : (s.emit kind bits).pool = s.pool := rfl
@[simp] theorem State.emit_status (s : State) (kind : OutKind) (bits : Cell64) : (s.emit kind bits).status = s.status := rfl
@[simp] theorem State.emit_cause (s : State) (kind : OutKind) (bits : Cell64) : (s.emit kind bits).cause = s.cause := rfl
@[simp] theorem State.emit_faultIp (s : State) (kind : OutKind) (bits : Cell64) : (s.emit kind bits).faultIp = s.faultIp := rfl
@[simp] theorem State.emit_faultLine (s : State) (kind : OutKind) (bits : Cell64) : (s.emit kind bits).faultLine = s.faultLine := rfl
@[simp] theorem State.emit_out (s : State) (kind : OutKind) (bits : Cell64) : (s.emit kind bits).out = s.out ++ [{ kind := kind, bits := bits }] := rfl
@[simp] theorem State.emit_diag (s : State) (kind : OutKind) (bits : Cell64) : (s.emit kind bits).diag = s.diag := rfl

/-! ## freeAll -/

@[simp] theorem State.freeAll_cfg (s : State) : s.freeAll.cfg = s.cfg := rfl
@[simp] theorem State.freeAll_code (s : State) : s.freeAll.code = s.code := rfl
@[simp] theorem State.freeAll_lineTable (s : State) : s.freeAll.lineTable = s.lineTable := rfl
@[simp] theorem State.freeAll_metadata (s : State) : s.freeAll.metadata = s.metadata := rfl
@[simp] theorem State.freeAll_ip (s : State) : s.freeAll.ip = s.ip := rfl
@[simp] theorem State.freeAll_regs (s : State) : s.freeAll.regs = s.regs := rfl
@[simp] theorem State.freeAll_tags (s : State) : s.freeAll.tags = s.tags := rfl
@[simp] theorem State.freeAll_flag (s : State) : s.freeAll.flag = s.flag := rfl
@[simp] theorem State.freeAll_stack (s : State) : s.freeAll.stack = s.stack := rfl
@[simp] theorem State.freeAll_pointerSlots (s : State) : s.freeAll.pointerSlots = s.pointerSlots := rfl
@[simp] theorem State.freeAll_slab (s : State) : s.freeAll.slab = s.slab := rfl
@[simp] theorem State.freeAll_tree (s : State) : s.freeAll.tree = (freeAllBlocks s.cfg s.tree s.pool).1 := rfl
@[simp] theorem State.freeAll_pool (s : State) : s.freeAll.pool = (freeAllBlocks s.cfg s.tree s.pool).2 := rfl
@[simp] theorem State.freeAll_status (s : State) : s.freeAll.status = s.status := rfl
@[simp] theorem State.freeAll_cause (s : State) : s.freeAll.cause = s.cause := rfl
@[simp] theorem State.freeAll_faultIp (s : State) : s.freeAll.faultIp = s.faultIp := rfl
@[simp] theorem State.freeAll_faultLine (s : State) : s.freeAll.faultLine = s.faultLine := rfl
@[simp] theorem State.freeAll_out (s : State) : s.freeAll.out = s.out := rfl
@[simp] theorem State.freeAll_diag (s : State) : s.freeAll.diag = s.diag := rfl

/-! ## clearRegs -/

@[simp] theorem State.clearRegs_cfg (s : State) : s.clearRegs.cfg = s.cfg := rfl
@[simp] theorem State.clearRegs_code (s : State) : s.clearRegs.code = s.code := rfl
@[simp] theorem State.clearRegs_lineTable (s : State) : s.clearRegs.lineTable = s.lineTable := rfl
@[simp] theorem State.clearRegs_metadata (s : State) : s.clearRegs.metadata = s.metadata := rfl
@[simp] theorem State.clearRegs_ip (s : State) : s.clearRegs.ip = s.ip := rfl
@[simp] theorem State.clearRegs_regs (s : State) : s.clearRegs.regs = Vector.replicate 256 0 := rfl
@[simp] theorem State.clearRegs_tags (s : State) : s.clearRegs.tags = Vector.replicate 256 0 := rfl
@[simp] theorem State.clearRegs_flag (s : State) : s.clearRegs.flag = s.flag := rfl
@[simp] theorem State.clearRegs_stack (s : State) : s.clearRegs.stack = s.stack := rfl
@[simp] theorem State.clearRegs_pointerSlots (s : State) : s.clearRegs.pointerSlots = s.pointerSlots := rfl
@[simp] theorem State.clearRegs_slab (s : State) : s.clearRegs.slab = s.slab := rfl
@[simp] theorem State.clearRegs_tree (s : State) : s.clearRegs.tree = s.tree := rfl
@[simp] theorem State.clearRegs_pool (s : State) : s.clearRegs.pool = s.pool := rfl
@[simp] theorem State.clearRegs_status (s : State) : s.clearRegs.status = s.status := rfl
@[simp] theorem State.clearRegs_cause (s : State) : s.clearRegs.cause = s.cause := rfl
@[simp] theorem State.clearRegs_faultIp (s : State) : s.clearRegs.faultIp = s.faultIp := rfl
@[simp] theorem State.clearRegs_faultLine (s : State) : s.clearRegs.faultLine = s.faultLine := rfl
@[simp] theorem State.clearRegs_out (s : State) : s.clearRegs.out = s.out := rfl
@[simp] theorem State.clearRegs_diag (s : State) : s.clearRegs.diag = s.diag := rfl

/-! ## halted -/

@[simp] theorem State.halted_cfg (s : State) : s.halted.cfg = s.cfg := rfl
@[simp] theorem State.halted_code (s : State) : s.halted.code = s.code := rfl
@[simp] theorem State.halted_lineTable (s : State) : s.halted.lineTable = s.lineTable := rfl
@[simp] theorem State.halted_metadata (s : State) : s.halted.metadata = s.metadata := rfl
@[simp] theorem State.halted_ip (s : State) : s.halted.ip = s.ip := rfl
@[simp] theorem State.halted_regs (s : State) : s.halted.regs = s.regs := rfl
@[simp] theorem State.halted_tags (s : State) : s.halted.tags = s.tags := rfl
@[simp] theorem State.halted_flag (s : State) : s.halted.flag = s.flag := rfl
@[simp] theorem State.halted_stack (s : State) : s.halted.stack = s.stack := rfl
@[simp] theorem State.halted_pointerSlots (s : State) : s.halted.pointerSlots = s.pointerSlots := rfl
@[simp] theorem State.halted_slab (s : State) : s.halted.slab = s.slab := rfl
@[simp] theorem State.halted_tree (s : State) : s.halted.tree = s.tree := rfl
@[simp] theorem State.halted_pool (s : State) : s.halted.pool = s.pool := rfl
@[simp] theorem State.halted_status (s : State) : s.halted.status = .halted := rfl
@[simp] theorem State.halted_cause (s : State) : s.halted.cause = s.cause := rfl
@[simp] theorem State.halted_faultIp (s : State) : s.halted.faultIp = s.faultIp := rfl
@[simp] theorem State.halted_faultLine (s : State) : s.halted.faultLine = s.faultLine := rfl
@[simp] theorem State.halted_out (s : State) : s.halted.out = s.out := rfl
@[simp] theorem State.halted_diag (s : State) : s.halted.diag = s.diag := rfl

/-! ## takeRuntimeError -/

@[simp] theorem State.takeRuntimeError_cfg (s : State) (c : Cause) : (s.takeRuntimeError c).cfg = s.cfg := rfl
@[simp] theorem State.takeRuntimeError_code (s : State) (c : Cause) : (s.takeRuntimeError c).code = s.code := rfl
@[simp] theorem State.takeRuntimeError_lineTable (s : State) (c : Cause) : (s.takeRuntimeError c).lineTable = s.lineTable := rfl
@[simp] theorem State.takeRuntimeError_metadata (s : State) (c : Cause) : (s.takeRuntimeError c).metadata = s.metadata := rfl
@[simp] theorem State.takeRuntimeError_ip (s : State) (c : Cause) : (s.takeRuntimeError c).ip = s.ip := rfl
@[simp] theorem State.takeRuntimeError_regs (s : State) (c : Cause) : (s.takeRuntimeError c).regs = s.regs := rfl
@[simp] theorem State.takeRuntimeError_tags (s : State) (c : Cause) : (s.takeRuntimeError c).tags = s.tags := rfl
@[simp] theorem State.takeRuntimeError_flag (s : State) (c : Cause) : (s.takeRuntimeError c).flag = s.flag := rfl
@[simp] theorem State.takeRuntimeError_stack (s : State) (c : Cause) : (s.takeRuntimeError c).stack = s.stack := rfl
@[simp] theorem State.takeRuntimeError_pointerSlots (s : State) (c : Cause) : (s.takeRuntimeError c).pointerSlots = s.pointerSlots := rfl
@[simp] theorem State.takeRuntimeError_slab (s : State) (c : Cause) : (s.takeRuntimeError c).slab = s.slab := rfl
@[simp] theorem State.takeRuntimeError_tree (s : State) (c : Cause) : (s.takeRuntimeError c).tree = s.tree := rfl
@[simp] theorem State.takeRuntimeError_pool (s : State) (c : Cause) : (s.takeRuntimeError c).pool = s.pool := rfl
@[simp] theorem State.takeRuntimeError_status (s : State) (c : Cause) : (s.takeRuntimeError c).status = .runtimeError := rfl
@[simp] theorem State.takeRuntimeError_cause (s : State) (c : Cause) : (s.takeRuntimeError c).cause = c.code := rfl
@[simp] theorem State.takeRuntimeError_faultIp (s : State) (c : Cause) : (s.takeRuntimeError c).faultIp = s.ip := rfl
@[simp] theorem State.takeRuntimeError_faultLine (s : State) (c : Cause) : (s.takeRuntimeError c).faultLine = getLine s.lineTable s.ip.toNat := rfl
@[simp] theorem State.takeRuntimeError_out (s : State) (c : Cause) : (s.takeRuntimeError c).out = s.out := rfl
@[simp] theorem State.takeRuntimeError_diag (s : State) (c : Cause) : (s.takeRuntimeError c).diag = s.diag ++ [{ cause := c.code, faultIp := s.ip, line := getLine s.lineTable s.ip.toNat }] := rfl

/-! ## writeBool -/

@[simp] theorem State.writeBool_cfg (s : State) (c : Reg) (b : Bool) : (s.writeBool c b).cfg = s.cfg := rfl
@[simp] theorem State.writeBool_code (s : State) (c : Reg) (b : Bool) : (s.writeBool c b).code = s.code := rfl
@[simp] theorem State.writeBool_lineTable (s : State) (c : Reg) (b : Bool) : (s.writeBool c b).lineTable = s.lineTable := rfl
@[simp] theorem State.writeBool_metadata (s : State) (c : Reg) (b : Bool) : (s.writeBool c b).metadata = s.metadata := rfl
@[simp] theorem State.writeBool_ip (s : State) (c : Reg) (b : Bool) : (s.writeBool c b).ip = s.ip := rfl
@[simp] theorem State.writeBool_regs (s : State) (c : Reg) (b : Bool) : (s.writeBool c b).regs = s.regs.set c.toNat (boolCell b) c.isLt := rfl
@[simp] theorem State.writeBool_tags (s : State) (c : Reg) (b : Bool) : (s.writeBool c b).tags = s.tags.set c.toNat (retag (s.tag c) TagKind.raw.code) c.isLt := rfl
@[simp] theorem State.writeBool_flag (s : State) (c : Reg) (b : Bool) : (s.writeBool c b).flag = b := rfl
@[simp] theorem State.writeBool_stack (s : State) (c : Reg) (b : Bool) : (s.writeBool c b).stack = s.stack := rfl
@[simp] theorem State.writeBool_pointerSlots (s : State) (c : Reg) (b : Bool) : (s.writeBool c b).pointerSlots = s.pointerSlots := rfl
@[simp] theorem State.writeBool_slab (s : State) (c : Reg) (b : Bool) : (s.writeBool c b).slab = s.slab := rfl
@[simp] theorem State.writeBool_tree (s : State) (c : Reg) (b : Bool) : (s.writeBool c b).tree = s.tree := rfl
@[simp] theorem State.writeBool_pool (s : State) (c : Reg) (b : Bool) : (s.writeBool c b).pool = s.pool := rfl
@[simp] theorem State.writeBool_status (s : State) (c : Reg) (b : Bool) : (s.writeBool c b).status = s.status := rfl
@[simp] theorem State.writeBool_cause (s : State) (c : Reg) (b : Bool) : (s.writeBool c b).cause = s.cause := rfl
@[simp] theorem State.writeBool_faultIp (s : State) (c : Reg) (b : Bool) : (s.writeBool c b).faultIp = s.faultIp := rfl
@[simp] theorem State.writeBool_faultLine (s : State) (c : Reg) (b : Bool) : (s.writeBool c b).faultLine = s.faultLine := rfl
@[simp] theorem State.writeBool_out (s : State) (c : Reg) (b : Bool) : (s.writeBool c b).out = s.out := rfl
@[simp] theorem State.writeBool_diag (s : State) (c : Reg) (b : Bool) : (s.writeBool c b).diag = s.diag := rfl

/-! ## start -/

@[simp] theorem State.start_cfg (s : State) : s.start.cfg = s.cfg := rfl
@[simp] theorem State.start_code (s : State) : s.start.code = s.code := rfl
@[simp] theorem State.start_lineTable (s : State) : s.start.lineTable = s.lineTable := rfl
@[simp] theorem State.start_metadata (s : State) : s.start.metadata = s.metadata := rfl
@[simp] theorem State.start_ip (s : State) : s.start.ip = 0 := rfl
@[simp] theorem State.start_regs (s : State) : s.start.regs = Vector.replicate 256 0 := rfl
@[simp] theorem State.start_tags (s : State) : s.start.tags = Vector.replicate 256 0 := rfl
@[simp] theorem State.start_flag (s : State) : s.start.flag = false := rfl
@[simp] theorem State.start_stack (s : State) : s.start.stack = [] := rfl
@[simp] theorem State.start_slab (s : State) : s.start.slab = s.slab := rfl
@[simp] theorem State.start_tree (s : State) : s.start.tree = .leaf s.cfg.slabExp s.cfg.slabBase false := rfl
@[simp] theorem State.start_pool (s : State) : s.start.pool = s.cfg.nodeCap - 1 := rfl
@[simp] theorem State.start_status (s : State) : s.start.status = .running := rfl
@[simp] theorem State.start_cause (s : State) : s.start.cause = 0 := rfl
@[simp] theorem State.start_faultIp (s : State) : s.start.faultIp = 0 := rfl
@[simp] theorem State.start_faultLine (s : State) : s.start.faultLine = noLine := rfl
@[simp] theorem State.start_out (s : State) : s.start.out = [] := rfl
@[simp] theorem State.start_diag (s : State) : s.start.diag = [] := rfl

@[simp] theorem State.start_pointerSlots (s : State) : s.start.pointerSlots = [] := by
  simp [State.start]

/-! ## Reading registers and tags -/

@[simp] theorem State.setVal_reg (s : State) (i j : Reg) (v : Cell64) :
    (s.setVal i v).reg j = if j = i then v else s.reg j := by
  simp only [State.reg, State.setVal, Vector.getElem_set, BitVec.toNat_eq, eq_comm]

@[simp] theorem State.setVal_tag (s : State) (i j : Reg) (v : Cell64) : (s.setVal i v).tag j = s.tag j := rfl

@[simp] theorem State.setTagBits_reg (s : State) (i j : Reg) (low : BitVec 5) :
    (s.setTagBits i low).reg j = s.reg j := rfl

@[simp] theorem State.setTagBits_tag (s : State) (i j : Reg) (low : BitVec 5) :
    (s.setTagBits i low).tag j = if j = i then retag (s.tag i) low else s.tag j := by
  simp only [State.tag, State.setTagBits, Vector.getElem_set, BitVec.toNat_eq, eq_comm]

@[simp] theorem State.setReg_reg (s : State) (i j : Reg) (v : Cell64) (kind : TagKind) :
    (s.setReg i v kind).reg j = if j = i then v else s.reg j := by
  simp [State.setReg]

@[simp] theorem State.setReg_tag (s : State) (i j : Reg) (v : Cell64) (kind : TagKind) :
    (s.setReg i v kind).tag j = if j = i then retag (s.tag i) kind.code else s.tag j := by
  simp [State.setReg]

@[simp] theorem State.copyReg_reg (s : State) (i j : Reg) (v : Cell64) (t : Tag) :
    (s.copyReg i v t).reg j = if j = i then v else s.reg j := by
  simp [State.copyReg]

@[simp] theorem State.copyReg_tag (s : State) (i j : Reg) (v : Cell64) (t : Tag) :
    (s.copyReg i v t).tag j = if j = i then retag (s.tag i) (t.extractLsb' 0 5) else s.tag j := by
  simp [State.copyReg]

@[simp] theorem State.writeBool_reg (s : State) (c j : Reg) (b : Bool) :
    (s.writeBool c b).reg j = if j = c then boolCell b else s.reg j := State.setReg_reg s c j (boolCell b) .raw

@[simp] theorem State.writeBool_tag (s : State) (c j : Reg) (b : Bool) :
    (s.writeBool c b).tag j = if j = c then retag (s.tag c) TagKind.raw.code else s.tag j :=
  State.setReg_tag s c j (boolCell b) .raw

@[simp] theorem State.clearRegs_reg (s : State) (j : Reg) : s.clearRegs.reg j = 0 := by
  simp [State.reg]

@[simp] theorem State.clearRegs_tag (s : State) (j : Reg) : s.clearRegs.tag j = 0 := by
  simp [State.tag]

@[simp] theorem State.start_reg (s : State) (j : Reg) : s.start.reg j = 0 := by
  simp [State.reg]

@[simp] theorem State.start_tag (s : State) (j : Reg) : s.start.tag j = 0 := by
  simp [State.tag]

@[simp] theorem State.setFlag_reg (s : State) (b : Bool) (j : Reg) : (s.setFlag b).reg j = s.reg j := rfl
@[simp] theorem State.setFlag_tag (s : State) (b : Bool) (j : Reg) : (s.setFlag b).tag j = s.tag j := rfl
@[simp] theorem State.advance_reg (s : State) (j : Reg) : s.advance.reg j = s.reg j := rfl
@[simp] theorem State.advance_tag (s : State) (j : Reg) : s.advance.tag j = s.tag j := rfl
@[simp] theorem State.jumpTo_reg (s : State) (t : Nat) (j : Reg) : (s.jumpTo t).reg j = s.reg j := rfl
@[simp] theorem State.jumpTo_tag (s : State) (t : Nat) (j : Reg) : (s.jumpTo t).tag j = s.tag j := rfl
@[simp] theorem State.truncate_reg (s : State) (n : Nat) (j : Reg) : (s.truncate n).reg j = s.reg j := rfl
@[simp] theorem State.truncate_tag (s : State) (n : Nat) (j : Reg) : (s.truncate n).tag j = s.tag j := rfl
@[simp] theorem State.writeSlot_reg (s : State) (k : Nat) (v : Cell64) (t : Tag) (j : Reg) : (s.writeSlot k v t).reg j = s.reg j := rfl
@[simp] theorem State.writeSlot_tag (s : State) (k : Nat) (v : Cell64) (t : Tag) (j : Reg) : (s.writeSlot k v t).tag j = s.tag j := rfl
@[simp] theorem State.emit_reg (s : State) (kind : OutKind) (bits : Cell64) (j : Reg) : (s.emit kind bits).reg j = s.reg j := rfl
@[simp] theorem State.emit_tag (s : State) (kind : OutKind) (bits : Cell64) (j : Reg) : (s.emit kind bits).tag j = s.tag j := rfl
@[simp] theorem State.freeAll_reg (s : State) (j : Reg) : s.freeAll.reg j = s.reg j := rfl
@[simp] theorem State.freeAll_tag (s : State) (j : Reg) : s.freeAll.tag j = s.tag j := rfl
@[simp] theorem State.halted_reg (s : State) (j : Reg) : s.halted.reg j = s.reg j := rfl
@[simp] theorem State.halted_tag (s : State) (j : Reg) : s.halted.tag j = s.tag j := rfl
@[simp] theorem State.takeRuntimeError_reg (s : State) (c : Cause) (j : Reg) : (s.takeRuntimeError c).reg j = s.reg j := rfl
@[simp] theorem State.takeRuntimeError_tag (s : State) (c : Cause) (j : Reg) : (s.takeRuntimeError c).tag j = s.tag j := rfl

/-! ## The parts of a rewritten tag (10_state.md R24, R26) -/

@[simp] theorem retag_low (old : Tag) (low : BitVec 5) : (retag old low).extractLsb' 0 5 = low := by
  ext i hi
  simp only [retag, BitVec.getElem_extractLsb', BitVec.getLsbD_append]
  simp [hi]

@[simp] theorem retag_reserved (old : Tag) (low : BitVec 5) :
    (retag old low).extractLsb' 5 3 = old.extractLsb' 5 3 := by
  ext i hi
  simp only [retag, BitVec.getElem_extractLsb', BitVec.getLsbD_append]
  simp [hi]

@[simp] theorem slotTag_low (t : Tag) : (slotTag t).extractLsb' 0 5 = t.extractLsb' 0 5 := by
  ext i hi
  simp only [slotTag, BitVec.getElem_extractLsb', BitVec.getLsbD_append, BitVec.getLsbD_extractLsb']
  simp [hi]

@[simp] theorem slotTag_reserved (t : Tag) : (slotTag t).extractLsb' 5 3 = 0 := by
  ext i hi
  simp only [slotTag, BitVec.getElem_extractLsb', BitVec.getLsbD_append]
  simp

end Sys2Proof.Machine
end

