-- ==== Sys2Proof/Laws/Ops.lean ====
section
/-! SUPPORT. One lemma per shared operation that says everything it can do; later proofs cite these and do not unfold
the operation. -/

namespace Sys2Proof.Machine

/-! ## The end of an instruction -/

@[simp] theorem State.settle_ok (s t : State) : s.settle (.ok t) = .next t := rfl

@[simp] theorem State.settle_cause (s : State) (c : Cause) :
    s.settle (.error (.cause c)) = .next (s.takeRuntimeError c) := rfl

@[simp] theorem State.settle_stuck (s : State) (f : Fault) : s.settle (.error (.stuck f)) = .fault f := rfl

/-- An instruction that answers a next state has completed or taken a runtime error. -/
theorem State.settle_eq_next {s t : State} {r : Except Stop State} (h : s.settle r = .next t) :
    r = .ok t ∨ ∃ c, r = .error (.cause c) ∧ t = s.takeRuntimeError c := by
  match r, h with
  | .ok _, h => exact .inl (congrArg Except.ok (Host.Outcome.next.inj h))
  | .error (.cause c), h => exact .inr ⟨c, rfl, (Host.Outcome.next.inj h).symm⟩
  | .error (.stuck _), h => exact nomatch h

/-- Pseudocode that goes on after a line has passed that line. -/
theorem bind_eq_ok {α β : Type} {x : Except Stop α} {f : α → Except Stop β} {b : β} (h : x >>= f = .ok b) :
    ∃ a, x = .ok a ∧ f a = .ok b := by
  match x, h with
  | .ok a, h => exact ⟨a, rfl, h⟩
  | .error _, h => exact nomatch h

/-- Pseudocode that stops has stopped at the first line or after it. -/
theorem bind_eq_error {α β : Type} {x : Except Stop α} {f : α → Except Stop β} {e : Stop} (h : x >>= f = .error e) :
    x = .error e ∨ ∃ a, x = .ok a ∧ f a = .error e := by
  match x, h with
  | .ok a, h => exact .inr ⟨a, rfl, h⟩
  | .error _, h => exact .inl (congrArg Except.error (Except.error.inj h))

@[simp] theorem ok_bind {α β : Type} (a : α) (f : α → Except Stop β) : (Except.ok a >>= f) = f a := rfl

@[simp] theorem error_bind {α β : Type} (e : Stop) (f : α → Except Stop β) :
    ((Except.error e : Except Stop α) >>= f) = .error e := rfl

/-! ## The value stack -/

@[simp] theorem isPtrTag_slotTag (t : Tag) : isPtrTag (slotTag t) = isPtrTag t := by
  rw [isPtrTag, isPtrTag, slotTag, BitVec.getLsbD_append]
  simp

theorem State.push_ok {s t : State} {v : Cell64} {g : Tag} (h : s.push v g = .ok t) :
    s.stack.length < s.cfg.stackCap ∧
      t = { s with
        stack := s.stack ++ [{ val := v, tag := slotTag g }]
        pointerSlots := if isPtrTag g then insertIndex s.stack.length s.pointerSlots else s.pointerSlots } := by
  unfold State.push at h
  split at h
  · exact nomatch h
  · exact ⟨by omega, (Except.ok.inj h).symm⟩

theorem State.push_error {s : State} {v : Cell64} {g : Tag} {e : Stop} (h : s.push v g = .error e) :
    s.cfg.stackCap ≤ s.stack.length ∧ e = .cause .stackOverflow := by
  unfold State.push at h
  split at h
  · exact ⟨by omega, (Except.error.inj h).symm⟩
  · exact nomatch h

theorem State.pop_ok {s t : State} {slot : Slot} (h : s.pop = .ok (slot, t)) :
    s.stack.getLast? = some slot ∧
      t = { s with
        stack := s.stack.dropLast
        pointerSlots := removeIndex (s.stack.length - 1) s.pointerSlots } := by
  unfold State.pop at h
  split at h
  · exact nomatch h
  · next sl hs =>
    obtain ⟨rfl, rfl⟩ := Prod.mk.inj (Except.ok.inj h)
    exact ⟨hs, rfl⟩

theorem State.pop_error {s : State} {e : Stop} (h : s.pop = .error e) :
    s.stack = [] ∧ e = .cause .stackUnderflow := by
  unfold State.pop at h
  split at h
  · next hs => exact ⟨List.getLast?_eq_none_iff.mp hs, (Except.error.inj h).symm⟩
  · exact nomatch h

/-! ## The heap slab -/

theorem State.memRead_ok {s : State} {a n v : Nat} (h : s.memRead a n = .ok v) :
    inSlab s.cfg a n ∧ v = s.slab.readLE a n := by
  unfold State.memRead at h
  split at h
  · next hs => exact ⟨hs, (Except.ok.inj h).symm⟩
  · exact nomatch h

theorem State.memRead_error {s : State} {a n : Nat} {e : Stop} (h : s.memRead a n = .error e) :
    ¬ inSlab s.cfg a n ∧ e = .cause .addressOutOfRange := by
  unfold State.memRead at h
  split at h
  · exact nomatch h
  · next hs => exact ⟨hs, (Except.error.inj h).symm⟩

theorem State.memWrite_ok {s t : State} {a n : Nat} {v : Cell64} (h : s.memWrite a n v = .ok t) :
    inSlab s.cfg a n ∧ t = { s with slab := s.slab.writeLE a v.toNat n } := by
  unfold State.memWrite at h
  split at h
  · next hs => exact ⟨hs, (Except.ok.inj h).symm⟩
  · exact nomatch h

theorem State.memWrite_error {s : State} {a n : Nat} {v : Cell64} {e : Stop} (h : s.memWrite a n v = .error e) :
    ¬ inSlab s.cfg a n ∧ e = .cause .addressOutOfRange := by
  unfold State.memWrite at h
  split at h
  · exact nomatch h
  · next hs => exact ⟨hs, (Except.error.inj h).symm⟩

/-! ## The allocator port -/

theorem allocBlock_found {cfg : Config} {tree tree' : Node} {pool pool' k0 a : Nat}
    (h : allocBlock cfg tree pool k0 = .found a tree' pool') :
    max k0 cfg.minExp ≤ cfg.slabExp ∧
      ∃ splits, tree.search (max k0 cfg.minExp) = some (a, tree', splits) ∧ 2 * splits ≤ pool ∧
        pool' = pool - 2 * splits := by
  unfold allocBlock at h
  dsimp only at h
  split at h
  · exact nomatch h
  · next hk =>
    split at h
    · exact nomatch h
    · next a1 t1 n hs =>
      split at h
      · next hp =>
        obtain ⟨rfl, rfl, rfl⟩ := AllocResult.found.inj h
        exact ⟨by omega, n, hs, hp, rfl⟩
      · exact nomatch h

theorem State.alloc_ok {s t : State} {k a : Nat} (h : s.alloc k = .ok (a, t)) :
    ∃ tree pool, allocBlock s.cfg s.tree s.pool k = .found a tree pool ∧
      t = { s with tree := tree, pool := pool } := by
  unfold State.alloc at h
  split at h
  · next a1 tree pool hs =>
    obtain ⟨rfl, rfl⟩ := Prod.mk.inj (Except.ok.inj h)
    exact ⟨tree, pool, hs, rfl⟩
  · exact nomatch h
  · exact nomatch h

theorem State.alloc_error {s : State} {k : Nat} {e : Stop} (h : s.alloc k = .error e) :
    (allocBlock s.cfg s.tree s.pool k = .oom ∧ e = .cause .outOfMemory) ∨
      (allocBlock s.cfg s.tree s.pool k = .poolEmpty ∧ e = .stuck .nodePoolEmpty) := by
  unfold State.alloc at h
  split at h
  · exact nomatch h
  · next hs => exact .inl ⟨hs, (Except.error.inj h).symm⟩
  · next hs => exact .inr ⟨hs, (Except.error.inj h).symm⟩

/-! ## Operands -/

theorem State.checkTarget_ok {s : State} {t : Int} {n : Nat} (h : s.checkTarget t = .ok n) :
    n < s.codeSize ∧ t = (n : Int) := by
  unfold State.checkTarget at h
  split at h
  · next ht =>
    obtain rfl := Except.ok.inj h
    omega
  · exact nomatch h

theorem State.checkTarget_error {s : State} {t : Int} {e : Stop} (h : s.checkTarget t = .error e) :
    ¬ (0 ≤ t ∧ t < (s.codeSize : Int)) ∧ e = .cause .jumpOutOfRange := by
  unfold State.checkTarget at h
  split at h
  · exact nomatch h
  · next ht => exact ⟨ht, (Except.error.inj h).symm⟩

theorem State.frameSlot_ok {s : State} {a : Reg} {k : Nat} {slot : Slot} (h : s.frameSlot a = .ok (k, slot)) :
    k = s.frameBase + s.asUnsigned a ∧ s.stack[k]? = some slot := by
  unfold State.frameSlot at h
  split at h
  · exact nomatch h
  · next sl hs =>
    obtain ⟨rfl, rfl⟩ := Prod.mk.inj (Except.ok.inj h)
    exact ⟨rfl, hs⟩

theorem State.frameSlot_error {s : State} {a : Reg} {e : Stop} (h : s.frameSlot a = .error e) :
    s.stack.length ≤ s.frameBase + s.asUnsigned a ∧ e = .cause .stackFrameOutOfBounds := by
  unfold State.frameSlot at h
  split at h
  · next hs => exact ⟨List.getElem?_eq_none_iff.mp hs, (Except.error.inj h).symm⟩
  · exact nomatch h

theorem State.linkage_ok {s : State} {base : Nat} {ret : Cell64} {saved : Slot}
    (h : s.linkage = .ok (base, ret, saved)) :
    base = s.frameBase ∧ 2 ≤ base ∧ base ≤ s.stack.length ∧
      (∃ slot, s.stack[base - 2]? = some slot ∧ ret = slot.val) ∧ s.stack[base - 1]? = some saved := by
  unfold State.linkage at h
  split at h
  · exact nomatch h
  · next hb =>
    split at h
    · next r1 s1 hr hs =>
      obtain ⟨rfl, h2⟩ := Prod.mk.inj (Except.ok.inj h)
      obtain ⟨rfl, rfl⟩ := Prod.mk.inj h2
      exact ⟨rfl, by omega, by omega, ⟨r1, hr, rfl⟩, hs⟩
    · exact nomatch h

/-- `RETURN` finds no frame exactly when the base is below 2 or above the stack (45_stack_call.md R157). -/
theorem State.linkage_error {s : State} {e : Stop} (h : s.linkage = .error e) :
    (s.frameBase < 2 ∨ s.stack.length < s.frameBase) ∧ e = .cause .badFrame := by
  unfold State.linkage at h
  split at h
  · next hb => exact ⟨hb, (Except.error.inj h).symm⟩
  · next hb =>
    split at h
    · exact nomatch h
    · next hn =>
      exact (hn _ _ (List.getElem?_eq_getElem (by omega)) (List.getElem?_eq_getElem (by omega))).elim

theorem State.fieldAt_ok {s : State} {a b : Reg} {addr : Nat} {kind : PrimKind}
    (h : s.fieldAt a b = .ok (addr, kind)) :
    isPtrTag (s.tag a) = true ∧
      ∃ t f, s.metadata[selType (s.reg b)]? = some t ∧ t.fields[selField (s.reg b)]? = some f ∧
        addr = s.asUnsigned a + f.offset.toNat ∧ kind = f.kind := by
  unfold State.fieldAt at h
  obtain ⟨_, h1, h⟩ := bind_eq_ok h
  obtain ⟨t, h2, h⟩ := bind_eq_ok h
  obtain ⟨f, h3, h⟩ := bind_eq_ok h
  obtain ⟨rfl, rfl⟩ := Prod.mk.inj (Except.ok.inj h)
  have hp : isPtrTag (s.tag a) = true := by
    unfold State.checkPtr at h1
    split at h1
    · assumption
    · exact nomatch h1
  have ht : s.metadata[selType (s.reg b)]? = some t := by
    unfold State.typeOf at h2
    split at h2
    · exact nomatch h2
    · next hs => rw [hs, Except.ok.inj h2]
  have hf : t.fields[selField (s.reg b)]? = some f := by
    unfold fieldOf at h3
    split at h3
    · exact nomatch h3
    · next hs => rw [hs, Except.ok.inj h3]
  exact ⟨hp, t, f, ht, hf, rfl, rfl⟩

theorem State.elementAt_ok {s : State} {a b : Reg} {addr span : Nat} (h : s.elementAt a b = .ok (addr, span)) :
    isPtrTag (s.tag a) = true ∧ isArrayTag (s.tag a) = true ∧ inSlab s.cfg (s.asUnsigned a) 8 ∧
      inSlab s.cfg (s.asUnsigned a + 8) 8 ∧ span = s.slab.readLE (s.asUnsigned a + 8) 8 ∧ spanOk span ∧
      s.asUnsigned b < s.slab.readLE (s.asUnsigned a) 8 ∧ addr = s.asUnsigned a + 16 + s.asUnsigned b * span := by
  unfold State.elementAt at h
  obtain ⟨_, h1, h⟩ := bind_eq_ok h
  obtain ⟨_, h2, h⟩ := bind_eq_ok h
  obtain ⟨count, h3, h⟩ := bind_eq_ok h
  obtain ⟨sp, h4, h⟩ := bind_eq_ok h
  obtain ⟨_, h5, h⟩ := bind_eq_ok h
  obtain ⟨_, h6, h⟩ := bind_eq_ok h
  obtain ⟨rfl, rfl⟩ := Prod.mk.inj (Except.ok.inj h)
  obtain ⟨h7, rfl⟩ := State.memRead_ok h3
  obtain ⟨h8, hsp⟩ := State.memRead_ok h4
  have hp : isPtrTag (s.tag a) = true := by
    unfold State.checkPtr at h1
    split at h1
    · assumption
    · exact nomatch h1
  have ha : isArrayTag (s.tag a) = true := by
    unfold State.checkArray at h2
    split at h2
    · assumption
    · exact nomatch h2
  have hs : spanOk sp := by
    unfold checkSpan at h5
    split at h5
    · assumption
    · exact nomatch h5
  have hi : s.asUnsigned b < s.slab.readLE (s.asUnsigned a) 8 := by
    unfold checkIndex at h6
    split at h6
    · assumption
    · exact nomatch h6
  exact ⟨hp, ha, h7, h8, hsp, hs, hi, rfl⟩

/-! ## The pointer-slot index -/

theorem mem_insertIndex (k j : Nat) (p : List Nat) : j ∈ insertIndex k p ↔ j = k ∨ j ∈ p := by
  induction p with
  | nil => simp [insertIndex]
  | cons a r ih => unfold insertIndex; grind

theorem insertIndex_rising (k : Nat) (p : List Nat) (h : p.Pairwise (· < ·)) :
    (insertIndex k p).Pairwise (· < ·) := by
  induction p with
  | nil => simp [insertIndex]
  | cons a r ih =>
    unfold insertIndex
    have h1 := List.pairwise_cons.mp h
    split
    · exact List.pairwise_cons.mpr ⟨by grind, h⟩
    · split
      · exact h
      · exact List.pairwise_cons.mpr ⟨fun x hx => by grind [mem_insertIndex], ih h1.2⟩

theorem mem_removeIndex (k j : Nat) (p : List Nat) : j ∈ removeIndex k p ↔ j ∈ p ∧ j ≠ k := by
  simp [removeIndex]

theorem mem_markSlot (k j : Nat) (t : Tag) (p : List Nat) :
    j ∈ markSlot k t p ↔ if j = k then isPtrTag t = true else j ∈ p := by
  unfold markSlot
  split <;> split <;> simp_all [mem_insertIndex, mem_removeIndex]

/-! ## Immediates and sizes -/

/-- Testing bit 23 and or-ing in 0xFF000000 is sign extension (30_encoding.md R78). -/
theorem offset24_eq (imm24 : BitVec 24) : offset24 imm24 = imm24.toInt := by
  have h1 : ext32 imm24 = imm24.signExtend 32 := by
    unfold ext32
    apply BitVec.eq_of_getLsbD_eq
    intro i hi
    rw [BitVec.getLsbD_signExtend]
    have hm : ∀ j, j < 32 → (0xFF000000#32).getLsbD j = decide (24 ≤ j) := by decide
    split
    · next h => simp [hm i hi, BitVec.getLsbD_setWidth, BitVec.msb_eq_getLsbD_last]; grind
    · next h => simp [BitVec.getLsbD_setWidth, BitVec.msb_eq_getLsbD_last]; grind
  rw [offset24, h1, BitVec.toInt_signExtend_of_le (by omega)]

/-- `clog2` is the ceiling logarithm (00_scope.md R10). -/
theorem clog2_eq (n : Nat) : clog2 n = Nat.clog 2 n := by
  unfold clog2
  split
  · next h => rw [Nat.clog_of_right_le_one h]
  · next h =>
    symm
    apply le_antisymm
    · rw [Nat.clog_le_iff_le_pow (by omega)]
      have := Nat.lt_log2_self (n := n - 1)
      omega
    · rw [Nat.succ_le_iff, Nat.lt_clog_iff_pow_lt (by omega)]
      have := Nat.log2_self_le (n := n - 1) (by omega)
      omega

/-! ## The allocator keeps its invariant (20_memory.md R58, R59) -/

theorem allocBlock_inv {cfg : Config} {tree tree' : Node} {pool pool' k0 a : Nat} (h : AllocatorInv cfg tree pool)
    (hf : allocBlock cfg tree pool k0 = .found a tree' pool') : AllocatorInv cfg tree' pool' := by
  obtain ⟨_, n, hs, hp, rfl⟩ := allocBlock_found hf
  obtain ⟨h2, _, h4, _⟩ := Node.search_some h.shaped (Nat.le_max_right _ _) hs
  exact ⟨h2, by have := h.records; omega⟩

/-- A split always finds two records in the pool. -/
theorem allocBlock_pool {cfg : Config} {tree : Node} {pool k0 : Nat} (h : AllocatorInv cfg tree pool) :
    allocBlock cfg tree pool k0 ≠ .poolEmpty := by
  unfold allocBlock
  dsimp only
  split
  · exact nofun
  · split
    · exact nofun
    · next a t n hs =>
      split
      · exact nofun
      · next hp =>
        obtain ⟨h2, _, h4, _⟩ := Node.search_some h.shaped (Nat.le_max_right _ _) hs
        have h5 := h2.count_le
        have h6 := h.records
        unfold Config.nodeCap at h6
        omega

theorem freeBlock_ok {cfg : Config} {tree tree' : Node} {pool pool' a k : Nat} (h : AllocatorInv cfg tree pool)
    (hf : freeBlock cfg tree pool a k = .ok (tree', pool')) : AllocatorInv cfg tree' pool' := by
  unfold freeBlock at hf
  split at hf
  · split at hf
    · next t1 h1 =>
      obtain ⟨rfl, rfl⟩ := Prod.mk.inj (Except.ok.inj hf)
      have hs := h.shaped
      unfold freeRoot at h1
      split at h1
      · split at h1
        · obtain rfl := Except.ok.inj h1
          exact ⟨hs, h.records⟩
        · exact nomatch h1
      · exact nomatch h1
      · exact nomatch h1
    · exact nomatch hf
  · split at hf
    · next t1 n h1 =>
      obtain ⟨rfl, rfl⟩ := Prod.mk.inj (Except.ok.inj hf)
      obtain ⟨h2, h3⟩ := Node.giveBack_ok h.shaped h1
      exact ⟨h2, by have := h.records; omega⟩
    · exact nomatch hf

theorem freeAllBlocks_inv {cfg : Config} {tree : Node} {pool : Nat} (h : AllocatorInv cfg tree pool) :
    AllocatorInv cfg (freeAllBlocks cfg tree pool).1 (freeAllBlocks cfg tree pool).2 := by
  unfold freeAllBlocks
  have step : ∀ (tp : Node × Nat) leaf, AllocatorInv cfg tp.1 tp.2 →
      AllocatorInv cfg (freeOne cfg tp leaf).1 (freeOne cfg tp leaf).2 := by
    intro tp leaf htp
    unfold freeOne
    split
    · next hf => exact freeBlock_ok htp hf
    · exact htp
  generalize tree.allocatedLeaves = leaves
  have go : ∀ (leaves : List (Nat × Nat)) (tp : Node × Nat), AllocatorInv cfg tp.1 tp.2 →
      AllocatorInv cfg (leaves.foldl (freeOne cfg) tp).1 (leaves.foldl (freeOne cfg) tp).2 := by
    intro leaves
    induction leaves with
    | nil => exact fun _ htp => htp
    | cons leaf rest ih => exact fun tp htp => ih _ (step tp leaf htp)
  exact go leaves (tree, pool) h

end Sys2Proof.Machine
end

