-- ==== Sys2Proof/Laws/PerInstr.lean ====
section
/-! SUPPORT. The fields of a packed word (30_encoding.md R73, R74), and a family of laws with one lemma per
instruction: the opcode field of its word is its opcode (R80). -/

namespace Sys2Proof

/-! ## The fields of a packed word -/

@[simp] theorem fieldOp_packN (op : BitVec 8) : fieldOp (packN op) = op := by
  ext i hi
  simp only [fieldOp, packN, BitVec.getElem_extractLsb', BitVec.getLsbD_append]
  grind

@[simp] theorem fieldOp_packA (op : BitVec 8) (a : Reg) : fieldOp (packA op a) = op := by
  ext i hi
  simp only [fieldOp, packA, BitVec.getElem_extractLsb', BitVec.getLsbD_append]
  grind

@[simp] theorem fieldA_packA (op : BitVec 8) (a : Reg) : fieldA (packA op a) = a := by
  ext i hi
  simp only [fieldA, packA, BitVec.getElem_extractLsb', BitVec.getLsbD_append]
  grind

@[simp] theorem fieldOp_packAB (op : BitVec 8) (a b : Reg) : fieldOp (packAB op a b) = op := by
  ext i hi
  simp only [fieldOp, packAB, BitVec.getElem_extractLsb', BitVec.getLsbD_append]
  grind

@[simp] theorem fieldA_packAB (op : BitVec 8) (a b : Reg) : fieldA (packAB op a b) = a := by
  ext i hi
  simp only [fieldA, packAB, BitVec.getElem_extractLsb', BitVec.getLsbD_append]
  grind

@[simp] theorem fieldB_packAB (op : BitVec 8) (a b : Reg) : fieldB (packAB op a b) = b := by
  ext i hi
  simp only [fieldB, packAB, BitVec.getElem_extractLsb', BitVec.getLsbD_append]
  grind

@[simp] theorem fieldOp_packABC (op : BitVec 8) (a b c : Reg) : fieldOp (packABC op a b c) = op := by
  ext i hi
  simp only [fieldOp, packABC, BitVec.getElem_extractLsb', BitVec.getLsbD_append]
  grind

@[simp] theorem fieldA_packABC (op : BitVec 8) (a b c : Reg) : fieldA (packABC op a b c) = a := by
  ext i hi
  simp only [fieldA, packABC, BitVec.getElem_extractLsb', BitVec.getLsbD_append]
  grind

@[simp] theorem fieldB_packABC (op : BitVec 8) (a b c : Reg) : fieldB (packABC op a b c) = b := by
  ext i hi
  simp only [fieldB, packABC, BitVec.getElem_extractLsb', BitVec.getLsbD_append]
  grind

@[simp] theorem fieldC_packABC (op : BitVec 8) (a b c : Reg) : fieldC (packABC op a b c) = c := by
  ext i hi
  simp only [fieldC, packABC, BitVec.getElem_extractLsb', BitVec.getLsbD_append]
  grind

@[simp] theorem fieldOp_packAI (op : BitVec 8) (a : Reg) (imm16 : BitVec 16) : fieldOp (packAI op a imm16) = op := by
  ext i hi
  simp only [fieldOp, packAI, BitVec.getElem_extractLsb', BitVec.getLsbD_append]
  grind

@[simp] theorem fieldA_packAI (op : BitVec 8) (a : Reg) (imm16 : BitVec 16) : fieldA (packAI op a imm16) = a := by
  ext i hi
  simp only [fieldA, packAI, BitVec.getElem_extractLsb', BitVec.getLsbD_append]
  grind

@[simp] theorem fieldImm16_packAI (op : BitVec 8) (a : Reg) (imm16 : BitVec 16) : fieldImm16 (packAI op a imm16) = imm16 := by
  ext i hi
  simp only [fieldImm16, packAI, BitVec.getElem_extractLsb', BitVec.getLsbD_append]
  grind

@[simp] theorem fieldOp_packJ (op : BitVec 8) (imm24 : BitVec 24) : fieldOp (packJ op imm24) = op := by
  ext i hi
  simp only [fieldOp, packJ, BitVec.getElem_extractLsb', BitVec.getLsbD_append]
  grind

@[simp] theorem fieldImm24_packJ (op : BitVec 8) (imm24 : BitVec 24) : fieldImm24 (packJ op imm24) = imm24 := by
  ext i hi
  simp only [fieldImm24, packJ, BitVec.getElem_extractLsb', BitVec.getLsbD_append]
  grind

end Sys2Proof

/-! ## The family: one lemma per instruction -/

namespace Sys2Proof.Laws.OpcodeField

/-- The opcode field of the instruction's word is the instruction's opcode. -/
def Statement (i : Instr) : Prop := fieldOp (encode i) = i.opcode

theorem halt : Statement .halt := fieldOp_packN _
theorem move (a b : Reg) : Statement (.move a b) := fieldOp_packAB _ _ _
theorem constLow (a : Reg) (imm16 : BitVec 16) : Statement (.constLow a imm16) := fieldOp_packAI _ _ _
theorem constLowNegative (a : Reg) (imm16 : BitVec 16) : Statement (.constLowNegative a imm16) := fieldOp_packAI _ _ _
theorem constMidLow (a : Reg) (imm16 : BitVec 16) : Statement (.constMidLow a imm16) := fieldOp_packAI _ _ _
theorem constMidHigh (a : Reg) (imm16 : BitVec 16) : Statement (.constMidHigh a imm16) := fieldOp_packAI _ _ _
theorem constHigh (a : Reg) (imm16 : BitVec 16) : Statement (.constHigh a imm16) := fieldOp_packAI _ _ _
theorem push (a : Reg) : Statement (.push a) := fieldOp_packA _ _
theorem pop (a : Reg) : Statement (.pop a) := fieldOp_packA _ _
theorem moveFromStackFrame (a b : Reg) : Statement (.moveFromStackFrame a b) := fieldOp_packAB _ _ _
theorem moveToStackFrame (a b : Reg) : Statement (.moveToStackFrame a b) := fieldOp_packAB _ _ _
theorem pushIp (imm24 : BitVec 24) : Statement (.pushIp imm24) := fieldOp_packJ _ _
theorem newStackFrame : Statement .newStackFrame := fieldOp_packN _
theorem ret : Statement .ret := fieldOp_packN _
theorem jump (imm24 : BitVec 24) : Statement (.jump imm24) := fieldOp_packJ _ _
theorem jumpIf (imm24 : BitVec 24) : Statement (.jumpIf imm24) := fieldOp_packJ _ _
theorem jumpAbs (a : Reg) : Statement (.jumpAbs a) := fieldOp_packA _ _
theorem jumpAbsIf (a : Reg) : Statement (.jumpAbsIf a) := fieldOp_packA _ _
theorem alloc (a b : Reg) : Statement (.alloc a b) := fieldOp_packAB _ _ _
theorem allocArray (a b c : Reg) : Statement (.allocArray a b c) := fieldOp_packABC _ _ _ _
theorem structLoad (a b c : Reg) : Statement (.structLoad a b c) := fieldOp_packABC _ _ _ _
theorem structStore (a b c : Reg) : Statement (.structStore a b c) := fieldOp_packABC _ _ _ _
theorem arrayLoad (a b c : Reg) : Statement (.arrayLoad a b c) := fieldOp_packABC _ _ _ _
theorem arrayStore (a b c : Reg) : Statement (.arrayStore a b c) := fieldOp_packABC _ _ _ _
theorem intAdd (a b c : Reg) : Statement (.intAdd a b c) := fieldOp_packABC _ _ _ _
theorem intSubtract (a b c : Reg) : Statement (.intSubtract a b c) := fieldOp_packABC _ _ _ _
theorem intMultiply (a b c : Reg) : Statement (.intMultiply a b c) := fieldOp_packABC _ _ _ _
theorem intDivide (a b c : Reg) : Statement (.intDivide a b c) := fieldOp_packABC _ _ _ _
theorem uintAdd (a b c : Reg) : Statement (.uintAdd a b c) := fieldOp_packABC _ _ _ _
theorem uintSubtract (a b c : Reg) : Statement (.uintSubtract a b c) := fieldOp_packABC _ _ _ _
theorem uintMultiply (a b c : Reg) : Statement (.uintMultiply a b c) := fieldOp_packABC _ _ _ _
theorem uintDivide (a b c : Reg) : Statement (.uintDivide a b c) := fieldOp_packABC _ _ _ _
theorem floatAdd (a b c : Reg) : Statement (.floatAdd a b c) := fieldOp_packABC _ _ _ _
theorem floatSubtract (a b c : Reg) : Statement (.floatSubtract a b c) := fieldOp_packABC _ _ _ _
theorem floatMultiply (a b c : Reg) : Statement (.floatMultiply a b c) := fieldOp_packABC _ _ _ _
theorem floatDivide (a b c : Reg) : Statement (.floatDivide a b c) := fieldOp_packABC _ _ _ _
theorem doubleAdd (a b c : Reg) : Statement (.doubleAdd a b c) := fieldOp_packABC _ _ _ _
theorem doubleSubtract (a b c : Reg) : Statement (.doubleSubtract a b c) := fieldOp_packABC _ _ _ _
theorem doubleMultiply (a b c : Reg) : Statement (.doubleMultiply a b c) := fieldOp_packABC _ _ _ _
theorem doubleDivide (a b c : Reg) : Statement (.doubleDivide a b c) := fieldOp_packABC _ _ _ _
theorem bitAnd (a b c : Reg) : Statement (.bitAnd a b c) := fieldOp_packABC _ _ _ _
theorem bitOr (a b c : Reg) : Statement (.bitOr a b c) := fieldOp_packABC _ _ _ _
theorem equal (a b c : Reg) : Statement (.equal a b c) := fieldOp_packABC _ _ _ _
theorem notEqual (a b c : Reg) : Statement (.notEqual a b c) := fieldOp_packABC _ _ _ _
theorem intLess (a b c : Reg) : Statement (.intLess a b c) := fieldOp_packABC _ _ _ _
theorem intLessEqual (a b c : Reg) : Statement (.intLessEqual a b c) := fieldOp_packABC _ _ _ _
theorem uintLess (a b c : Reg) : Statement (.uintLess a b c) := fieldOp_packABC _ _ _ _
theorem uintLessEqual (a b c : Reg) : Statement (.uintLessEqual a b c) := fieldOp_packABC _ _ _ _
theorem floatEqual (a b c : Reg) : Statement (.floatEqual a b c) := fieldOp_packABC _ _ _ _
theorem floatNotEqual (a b c : Reg) : Statement (.floatNotEqual a b c) := fieldOp_packABC _ _ _ _
theorem floatLess (a b c : Reg) : Statement (.floatLess a b c) := fieldOp_packABC _ _ _ _
theorem floatLessEqual (a b c : Reg) : Statement (.floatLessEqual a b c) := fieldOp_packABC _ _ _ _
theorem doubleEqual (a b c : Reg) : Statement (.doubleEqual a b c) := fieldOp_packABC _ _ _ _
theorem doubleNotEqual (a b c : Reg) : Statement (.doubleNotEqual a b c) := fieldOp_packABC _ _ _ _
theorem doubleLess (a b c : Reg) : Statement (.doubleLess a b c) := fieldOp_packABC _ _ _ _
theorem doubleLessEqual (a b c : Reg) : Statement (.doubleLessEqual a b c) := fieldOp_packABC _ _ _ _
theorem test (a b : Reg) : Statement (.test a b) := fieldOp_packAB _ _ _
theorem out (a : Reg) : Statement (.out a) := fieldOp_packA _ _

end Sys2Proof.Laws.OpcodeField
end

