-- ==== Sys2Proof/Laws/Safety.lean ====
section
/-! SUPPORT. The first facts about the terms claims use: legal tags as tag kinds, and what a frame says. -/

namespace Sys2Proof.Machine

/-- The six legal patterns are the codes of the six kinds (10_state.md R25). -/
theorem legalTag_iff (t : Tag) : LegalTag t ↔ ∃ kind : TagKind, t.extractLsb' 0 5 = kind.code := by
  constructor
  · intro h
    simp only [LegalTag, List.mem_cons, List.not_mem_nil, or_false] at h
    rcases h with h | h | h | h | h | h
    exacts [⟨.raw, h⟩, ⟨.ptr, h⟩, ⟨.signed, h⟩, ⟨.float, h⟩, ⟨.double, h⟩, ⟨.arrayPtr, h⟩]
  · rintro ⟨kind, h⟩
    rw [LegalTag, h]
    cases kind <;> decide

/-- A typed write leaves a legal tag (10_state.md R26). -/
theorem legalTag_retag (old : Tag) (kind : TagKind) : LegalTag (retag old kind.code) :=
  (legalTag_iff _).mpr ⟨kind, by
    apply BitVec.eq_of_getLsbD_eq
    intro i hi
    simp only [retag, BitVec.getLsbD_extractLsb', BitVec.getLsbD_append, hi, decide_true, Bool.true_and, Nat.zero_add,
      if_true]⟩

/-- Nothing changed: every frame holds. -/
theorem SameBut.refl (s : State) (regs : List Reg) (parts : List Part) : SameBut s s regs parts where
  loaded := ⟨rfl, rfl, rfl, rfl⟩
  registers _ _ := ⟨rfl, rfl⟩
  flag _ := rfl
  stack _ := ⟨rfl, rfl⟩
  heap _ _ := rfl
  allocator _ := ⟨rfl, rfl⟩
  out _ := rfl
  report _ := ⟨rfl, rfl, rfl, rfl, rfl⟩

/-- A frame that names more is weaker. -/
theorem SameBut.mono {s t : State} {regs regs' : List Reg} {parts parts' : List Part} (h : SameBut s t regs parts)
    (hr : regs ⊆ regs') (hp : parts ⊆ parts') : SameBut s t regs' parts' where
  loaded := h.loaded
  registers r hn := h.registers r (fun hm => hn (hr hm))
  flag hn := h.flag (fun hm => hn (hp hm))
  stack hn := h.stack (fun hm => hn (hp hm))
  heap hn := h.heap (fun hm => hn (hp hm))
  allocator hn := h.allocator (fun hm => hn (hp hm))
  out hn := h.out (fun hm => hn (hp hm))
  report hn := h.report (fun hm => hn (hp hm))

/-- Frames compose. -/
theorem SameBut.trans {s t u : State} {regs : List Reg} {parts : List Part} (h : SameBut s t regs parts)
    (h' : SameBut t u regs parts) : SameBut s u regs parts where
  loaded :=
    ⟨h'.loaded.1.trans h.loaded.1, h'.loaded.2.1.trans h.loaded.2.1, h'.loaded.2.2.1.trans h.loaded.2.2.1,
      h'.loaded.2.2.2.trans h.loaded.2.2.2⟩
  registers r hn :=
    ⟨(h'.registers r hn).1.trans (h.registers r hn).1, (h'.registers r hn).2.trans (h.registers r hn).2⟩
  flag hn := (h'.flag hn).trans (h.flag hn)
  stack hn := ⟨(h'.stack hn).1.trans (h.stack hn).1, (h'.stack hn).2.trans (h.stack hn).2⟩
  heap hn a := (h'.heap hn a).trans (h.heap hn a)
  allocator hn := ⟨(h'.allocator hn).1.trans (h.allocator hn).1, (h'.allocator hn).2.trans (h.allocator hn).2⟩
  out hn := (h'.out hn).trans (h.out hn)
  report hn := by
    obtain ⟨a1, a2, a3, a4, a5⟩ := h.report hn
    obtain ⟨b1, b2, b3, b4, b5⟩ := h'.report hn
    exact ⟨b1.trans a1, b2.trans a2, b3.trans a3, b4.trans a4, b5.trans a5⟩

end Sys2Proof.Machine
end

