-- ==== Sys2Proof/Tests/Slice0.lean ====
section
/-! SUPPORT. Tests. Expected values come from the rules' own examples, corner cases and test vectors
(30_encoding.md to 70_reset_and_hazards.md, 95_test_vectors.md), or are worked out by hand from the rules. A theorem
named `test_witness_<statement>` shows states and operands that meet the hypotheses of that statement, one for each of
its cases, at the ends of their ranges. -/

namespace Sys2Proof.Tests

-- One theorem at a time: checking all of them at once takes more threads than a sandbox gives.
set_option Elab.async false

open Sys2Proof.Machine

/-! ## The encoder's contract, one ill-formed input for each check (R82) -/

theorem test_wf_opcode_undefined : AsmInstr.wellFormed ⟨0x3A, []⟩ = false := by decide
theorem test_wf_opcode_wide : AsmInstr.wellFormed ⟨0x100, []⟩ = false := by decide
theorem test_wf_register_high : AsmInstr.wellFormed ⟨0x18, [0, 256, 0]⟩ = false := by decide
theorem test_wf_register_negative : AsmInstr.wellFormed ⟨0x01, [0, -1]⟩ = false := by decide
theorem test_wf_imm16_high : AsmInstr.wellFormed ⟨0x02, [0, 65536]⟩ = false := by decide
theorem test_wf_imm16_low : AsmInstr.wellFormed ⟨0x03, [0, -32769]⟩ = false := by decide
theorem test_wf_offset_high : AsmInstr.wellFormed ⟨0x0E, [2 ^ 23]⟩ = false := by decide
theorem test_wf_offset_low : AsmInstr.wellFormed ⟨0x0E, [-(2 ^ 23) - 1]⟩ = false := by decide
theorem test_wf_operand_missing : AsmInstr.wellFormed ⟨0x07, []⟩ = false := by decide
theorem test_wf_operand_extra : AsmInstr.wellFormed ⟨0x00, [0]⟩ = false := by decide
theorem test_wf_ends_accepted :
    AsmInstr.wellFormed ⟨0x39, [255]⟩ = true ∧ AsmInstr.wellFormed ⟨0x03, [0, -32768]⟩ = true ∧
    AsmInstr.wellFormed ⟨0x02, [255, 65535]⟩ = true ∧ AsmInstr.wellFormed ⟨0x0E, [-(2 ^ 23)]⟩ = true ∧
    AsmInstr.wellFormed ⟨0x0E, [2 ^ 23 - 1]⟩ = true := by decide

/-! ## Decoding: one word of every row of the opcode map, written out from its format (R73, R80) -/

theorem test_decode_data_movement :
    decode 0x01123400 = .instr (.move 0x12 0x34) ∧
    decode 0x0212BEEF = .instr (.constLow 0x12 0xBEEF) ∧
    decode 0x0312BEEF = .instr (.constLowNegative 0x12 0xBEEF) ∧
    decode 0x0412BEEF = .instr (.constMidLow 0x12 0xBEEF) ∧
    decode 0x0512BEEF = .instr (.constMidHigh 0x12 0xBEEF) ∧
    decode 0x0612BEEF = .instr (.constHigh 0x12 0xBEEF) := by decide

theorem test_decode_stack_call :
    decode 0x07120000 = .instr (.push 0x12) ∧
    decode 0x08120000 = .instr (.pop 0x12) ∧
    decode 0x09123400 = .instr (.moveFromStackFrame 0x12 0x34) ∧
    decode 0x0A123400 = .instr (.moveToStackFrame 0x12 0x34) ∧
    decode 0x0BFFFFFC = .instr (.pushIp 0xFFFFFC) ∧
    decode 0x0C000000 = .instr .newStackFrame ∧
    decode 0x0D000000 = .instr .ret := by decide

theorem test_decode_control :
    decode 0x0EFFFFFC = .instr (.jump 0xFFFFFC) ∧
    decode 0x0FFFFFFC = .instr (.jumpIf 0xFFFFFC) ∧
    decode 0x10120000 = .instr (.jumpAbs 0x12) ∧
    decode 0x11120000 = .instr (.jumpAbsIf 0x12) := by decide

theorem test_decode_heap :
    decode 0x12123400 = .instr (.alloc 0x12 0x34) ∧
    decode 0x13123456 = .instr (.allocArray 0x12 0x34 0x56) ∧
    decode 0x14123456 = .instr (.structLoad 0x12 0x34 0x56) ∧
    decode 0x15123456 = .instr (.structStore 0x12 0x34 0x56) ∧
    decode 0x16123456 = .instr (.arrayLoad 0x12 0x34 0x56) ∧
    decode 0x17123456 = .instr (.arrayStore 0x12 0x34 0x56) := by decide

theorem test_decode_integer_arithmetic :
    decode 0x18123456 = .instr (.intAdd 0x12 0x34 0x56) ∧
    decode 0x19123456 = .instr (.intSubtract 0x12 0x34 0x56) ∧
    decode 0x1A123456 = .instr (.intMultiply 0x12 0x34 0x56) ∧
    decode 0x1B123456 = .instr (.intDivide 0x12 0x34 0x56) ∧
    decode 0x1C123456 = .instr (.uintAdd 0x12 0x34 0x56) ∧
    decode 0x1D123456 = .instr (.uintSubtract 0x12 0x34 0x56) ∧
    decode 0x1E123456 = .instr (.uintMultiply 0x12 0x34 0x56) ∧
    decode 0x1F123456 = .instr (.uintDivide 0x12 0x34 0x56) := by decide

theorem test_decode_floating_point_bitwise :
    decode 0x20123456 = .instr (.floatAdd 0x12 0x34 0x56) ∧
    decode 0x21123456 = .instr (.floatSubtract 0x12 0x34 0x56) ∧
    decode 0x22123456 = .instr (.floatMultiply 0x12 0x34 0x56) ∧
    decode 0x23123456 = .instr (.floatDivide 0x12 0x34 0x56) ∧
    decode 0x24123456 = .instr (.doubleAdd 0x12 0x34 0x56) ∧
    decode 0x25123456 = .instr (.doubleSubtract 0x12 0x34 0x56) ∧
    decode 0x26123456 = .instr (.doubleMultiply 0x12 0x34 0x56) ∧
    decode 0x27123456 = .instr (.doubleDivide 0x12 0x34 0x56) ∧
    decode 0x28123456 = .instr (.bitAnd 0x12 0x34 0x56) ∧
    decode 0x29123456 = .instr (.bitOr 0x12 0x34 0x56) := by decide

theorem test_decode_integer_comparison :
    decode 0x2A123456 = .instr (.equal 0x12 0x34 0x56) ∧
    decode 0x2B123456 = .instr (.notEqual 0x12 0x34 0x56) ∧
    decode 0x2C123456 = .instr (.intLess 0x12 0x34 0x56) ∧
    decode 0x2D123456 = .instr (.intLessEqual 0x12 0x34 0x56) ∧
    decode 0x2E123456 = .instr (.uintLess 0x12 0x34 0x56) ∧
    decode 0x2F123456 = .instr (.uintLessEqual 0x12 0x34 0x56) := by decide

theorem test_decode_float_comparison_test :
    decode 0x30123456 = .instr (.floatEqual 0x12 0x34 0x56) ∧
    decode 0x31123456 = .instr (.floatNotEqual 0x12 0x34 0x56) ∧
    decode 0x32123456 = .instr (.floatLess 0x12 0x34 0x56) ∧
    decode 0x33123456 = .instr (.floatLessEqual 0x12 0x34 0x56) ∧
    decode 0x34123456 = .instr (.doubleEqual 0x12 0x34 0x56) ∧
    decode 0x35123456 = .instr (.doubleNotEqual 0x12 0x34 0x56) ∧
    decode 0x36123456 = .instr (.doubleLess 0x12 0x34 0x56) ∧
    decode 0x37123456 = .instr (.doubleLessEqual 0x12 0x34 0x56) ∧
    decode 0x38123400 = .instr (.test 0x12 0x34) := by decide

theorem test_decode_halt_output :
    decode 0x00000000 = .instr .halt ∧
    decode 0x39120000 = .instr (.out 0x12) := by decide

theorem test_decode_illegal : decode 0x3A000000 = .illegal 0x3A ∧ decode 0xFF123456 = .illegal 0xFF := by decide

theorem test_decodeTableWord :
    decodeTableWord 32 0x13000102 = some (.allocArray 0 1 2) ∧ decodeTableWord 32 0x3A000000 = none := by decide

/-! ## Encoding and the assembler (R82, R84, R85) -/

theorem test_encode : encode (.intAdd 0 1 2) = 0x18000102 ∧ encode (.jump 0xFFFFFF) = 0x0EFFFFFF ∧
    encode (.pop 1) = 0x08010000 := by decide

theorem test_encodeAsm : encodeAsm ⟨0x03, [5, -5]⟩ = some 0x0305FFFB ∧ encodeAsm ⟨0x0F, [-4]⟩ = some 0x0FFFFFFC ∧
    encodeAsm ⟨0x18, [0, 1, 256]⟩ = none := by decide

theorem test_assemble_line :
    assembleLine [] "CONST_LOW R0, 5; INT_ADD R0,R1,R2; OUT R2" = some [0x02000005, 0x18000102, 0x39020000] := by
  decide +kernel

/-- 95_test_vectors.md writes `JUMP +3`; a `+` before any other operand is refused (log 17). -/
theorem test_assemble_plus :
    assembleLine [] "JUMP +3; JUMP -1" = some [0x0E000003, 0x0EFFFFFF] ∧ assembleLine [] "CONST_LOW R0, +5" = none := by
  decide +kernel

theorem test_assemble_call :
    assembleLine [("F".toList, 5)] "CALL F; POP r1" = some [0x0B000002, 0x0C000000, 0x0E000002, 0x08010000] := by
  decide +kernel

theorem test_assemble_li64 :
    assembleLine [] "LI64 R1, 0x4000000000000002" = some [0x02010002, 0x04010000, 0x05010000, 0x06014000] := by
  decide +kernel

/-- `LI64` takes −2^63 to 2^64 − 1 and no `_` (log 17). -/
theorem test_assemble_li64_range :
    assembleLine [] "LI64 R0, 18446744073709551616" = none ∧ assembleLine [] "LI64 R0, -9223372036854775809" = none ∧
    assembleLine [] "LI64 R0, -1" = some [0x0200FFFF, 0x0400FFFF, 0x0500FFFF, 0x0600FFFF] ∧
    assembleLine [] "LI64 R0, 0x1_0" = none := by
  decide +kernel

/-! ## Small states -/

/-- Three stack slots, a slab of 64 bytes at 0x1000, blocks of at least 16 bytes. -/
def small : Config := { Config.default with stackCap := 3, slabExp := 6, slabBase := 0x1000 }

/-- After reset, with the small parameters. -/
def idle : State := State.resetWith small

/-- Running the words from index 0. -/
def running (code : List Word) : State := { idle with code := code, status := .running }

/-- The state with registers written one after another. -/
def withRegs (s : State) (l : List (Reg × Cell64 × TagKind)) : State :=
  l.foldl (fun s e => s.setReg e.1 e.2.1 e.2.2) s

/-- A field of the state after an instruction. -/
def after {α : Type} (i : Instr) (s : State) (f : State → α) : Option α :=
  match exec i s with
  | .next t => some (f t)
  | .fault _ => none
  | .refused _ => none

/-- A field of the state after a step. -/
def afterStep {α : Type} (s : State) (f : State → α) : Option α :=
  match step s with
  | .next t => some (f t)
  | .fault _ => none
  | .refused _ => none

/-- A field of the state after a host request. -/
def afterHost {α : Type} (r : HostRequest) (s : State) (f : State → α) : Option α :=
  match hostRequest r s with
  | .next t => some (f t)
  | .fault _ => none
  | .refused _ => none

/-- Value and tag of a register. -/
def cell (r : Reg) (t : State) : Cell64 × Tag := (t.reg r, t.tag r)

/-- Value, tag and flag, as a comparison writes them. -/
def boolAt (r : Reg) (t : State) : Cell64 × Tag × Bool := (t.reg r, t.tag r, t.flag)

/-- What a runtime error records. -/
def err (t : State) : Status × BitVec 8 × Index := (t.status, t.cause, t.ip)

/-- Registers 0 and 1 holding two values. -/
def two (x y : Cell64) : State := withRegs idle [(0, x, .raw), (1, y, .raw)]

/-! ## Data movement -/

theorem test_move : after (.move 3 7) (withRegs idle [(3, 5, .signed)]) (cell 7) = some (5, 0b00010) := by
  decide +kernel
theorem test_const_low : after (.constLow 0 5) (withRegs idle [(0, 0xAAAABBBBCCCCDDDD, .ptr)]) (cell 0) =
    some (0xAAAABBBBCCCC0005, 0) := by decide +kernel
theorem test_const_low_negative : after (.constLowNegative 5 0xFFFB) idle (cell 5) =
    some (0xFFFFFFFFFFFFFFFB, 0b00010) := by decide +kernel
theorem test_const_mid_low : after (.constMidLow 0 1) (withRegs idle [(0, 5, .raw)]) (cell 0) = some (0x10005, 0) := by
  decide +kernel
theorem test_const_mid_high : after (.constMidHigh 0 0xBEEF) (withRegs idle [(0, 0x10005, .raw)]) (cell 0) =
    some (0xBEEF00010005, 0) := by decide +kernel
theorem test_const_high : after (.constHigh 1 0x4000) idle (cell 1) = some (0x4000000000000000, 0) := by
  decide +kernel

/-! ## Arithmetic -/

theorem test_int_add_wraps : after (.intAdd 0 1 0) (two 0x7FFFFFFFFFFFFFFF 1) (cell 0) =
    some (0x8000000000000000, 0b00010) := by decide +kernel
theorem test_int_subtract : after (.intSubtract 0 1 2) (two 5 7) (cell 2) =
    some (0xFFFFFFFFFFFFFFFE, 0b00010) := by decide +kernel
theorem test_int_multiply : after (.intMultiply 0 1 2) (two 0xFFFFFFFFFFFFFFFD 7) (cell 2) =
    some (0xFFFFFFFFFFFFFFEB, 0b00010) := by decide +kernel
theorem test_int_divide_truncates : after (.intDivide 0 1 2) (two 0xFFFFFFFFFFFFFFF9 2) (cell 2) =
    some (0xFFFFFFFFFFFFFFFD, 0b00010) := by decide +kernel
theorem test_int_divide_overflow : after (.intDivide 0 1 2) (two 0x8000000000000000 0xFFFFFFFFFFFFFFFF) (cell 2) =
    some (0x8000000000000000, 0b00010) := by decide +kernel
theorem test_uint_add : after (.uintAdd 0 1 2) (two 0xFFFFFFFFFFFFFFFF 1) (cell 2) = some (0, 0) := by decide +kernel
theorem test_uint_subtract : after (.uintSubtract 0 1 2) (two 0 1) (cell 2) = some (0xFFFFFFFFFFFFFFFF, 0) := by
  decide +kernel
theorem test_uint_multiply :
    after (.uintMultiply 0 1 2) (two 0xFFFFFFFFFFFFFFFF 0xFFFFFFFFFFFFFFFF) (cell 2) = some (1, 0) := by
  decide +kernel
theorem test_uint_divide : after (.uintDivide 0 1 2) (two 0xFFFFFFFFFFFFFFF9 2) (cell 2) =
    some (0x7FFFFFFFFFFFFFFC, 0) := by decide +kernel
theorem test_float_add : after (.floatAdd 0 1 2) (two 0xDEAD00003FC00000 0x40100000) (cell 2) =
    some (0x40700000, 0b00100) := by decide +kernel
theorem test_float_subtract : after (.floatSubtract 0 1 2) (two 0x3F000000 0x3FC00000) (cell 2) =
    some (0xBF800000, 0b00100) := by decide +kernel
theorem test_float_multiply : after (.floatMultiply 0 1 2) (two 0x40400000 0x40000000) (cell 2) =
    some (0x40C00000, 0b00100) := by decide +kernel
theorem test_float_divide : after (.floatDivide 0 1 2) (two 0x3F800000 0x40400000) (cell 2) =
    some (0x3EAAAAAB, 0b00100) := by decide +kernel
theorem test_float_divide_by_zero : after (.floatDivide 0 1 2) (two 0x3F800000 0x80000000) (cell 2) =
    some (0xFF800000, 0b00100) := by decide +kernel
theorem test_double_add : after (.doubleAdd 0 1 2) (two 0x3FF8000000000000 0x4000000000000000) (cell 2) =
    some (0x400C000000000000, 0b01000) := by decide +kernel
theorem test_double_subtract : after (.doubleSubtract 0 1 2) (two 0x3FE0000000000000 0x3FF8000000000000) (cell 2) =
    some (0xBFF0000000000000, 0b01000) := by decide +kernel
theorem test_double_multiply : after (.doubleMultiply 0 1 2) (two 0x3FF8000000000000 0x4000000000000000) (cell 2) =
    some (0x4008000000000000, 0b01000) := by decide +kernel
theorem test_double_divide : after (.doubleDivide 0 1 2) (two 0x4008000000000000 0x4000000000000000) (cell 2) =
    some (0x3FF8000000000000, 0b01000) := by decide +kernel
theorem test_and_keeps_tag :
    after (.bitAnd 0 1 2) (withRegs (two 0xF0F0 0x0FF0) [(2, 0, .signed)]) (cell 2) = some (0x00F0, 0b00010) := by
  decide +kernel
theorem test_or_keeps_tag : after (.bitOr 0 1 0) (withRegs (two 0xF000 0x000F) [(0, 0xF000, .ptr)]) (cell 0) =
    some (0xF00F, 0b00001) := by decide +kernel

/-! ## Comparison -/

theorem test_equal : after (.equal 0 1 2) (two 0 0x8000000000000000) (boolAt 2) = some (0, 0, false) := by
  decide +kernel
theorem test_not_equal : after (.notEqual 0 1 2) (two 5 7) (boolAt 2) = some (1, 0, true) := by decide +kernel
theorem test_int_less : after (.intLess 0 1 2) (two 0xFFFFFFFFFFFFFFFF 0) (boolAt 2) = some (1, 0, true) := by
  decide +kernel
theorem test_int_less_equal : after (.intLessEqual 0 1 2) (two 7 7) (boolAt 2) = some (1, 0, true) := by
  decide +kernel
theorem test_uint_less : after (.uintLess 0 1 2) (two 0xFFFFFFFFFFFFFFFF 0) (boolAt 2) = some (0, 0, false) := by
  decide +kernel
theorem test_uint_less_equal : after (.uintLessEqual 0 1 2) (two 3 2) (boolAt 2) = some (0, 0, false) := by
  decide +kernel
theorem test_float_equal_nan : after (.floatEqual 0 1 2) (two 0x7FC00000 0x7FC00000) (boolAt 2) =
    some (0, 0, false) := by decide +kernel
theorem test_float_not_equal : after (.floatNotEqual 0 1 2) (two 0x3F800000 0x40000000) (boolAt 2) =
    some (1, 0, true) := by decide +kernel
theorem test_float_less : after (.floatLess 0 1 2) (two 0x40000000 0x3F800000) (boolAt 2) =
    some (0, 0, false) := by decide +kernel
theorem test_float_less_equal : after (.floatLessEqual 0 1 2) (two 0xBF400000 0x3F000000) (boolAt 2) =
    some (1, 0, true) := by decide +kernel
theorem test_double_equal : after (.doubleEqual 0 1 2) (two 0x3FF8000000000000 0x3FF8000000000000) (boolAt 2) =
    some (1, 0, true) := by decide +kernel
theorem test_double_not_equal_zeros : after (.doubleNotEqual 0 1 2) (two 0 0x8000000000000000) (boolAt 2) =
    some (0, 0, false) := by decide +kernel
theorem test_double_less : after (.doubleLess 0 1 2) (two 0x3FF8000000000000 0x4000000000000000) (boolAt 2) =
    some (1, 0, true) := by decide +kernel
theorem test_double_less_equal_nan : after (.doubleLessEqual 0 1 2) (two 0x7FF8000000000000 0) (boolAt 2) =
    some (0, 0, false) := by decide +kernel
theorem test_test_minus_zero : after (.test 0 1) (withRegs idle [(0, 0x8000000000000000, .double)]) (boolAt 1) =
    some (0, 0, false) := by decide +kernel
theorem test_test_float_upper_bits : after (.test 0 1) (withRegs idle [(0, 0xFFFFFFFF00000000, .float)]) (boolAt 1) =
    some (0, 0, false) := by decide +kernel

/-! ## Output, halt and rendering -/

theorem test_out : after (.out 2) (withRegs idle [(2, 12, .signed)]) (·.out) = some [⟨.signed, 12⟩] := by
  decide +kernel
theorem test_halt : after .halt (withRegs (running [0]) [(255, 9, .double), (3, 4, .ptr)])
    (fun t => (t.out, cell 3 t, t.status, t.ip, t.resultPort)) =
      some ([⟨.double, 9⟩], (0, 0), .halted, 1, some .ok) := by decide +kernel
theorem test_render : OutRecord.text ⟨.signed, 0xFFFFFFFFFFFFFFFB⟩ = "-5\n" ∧ OutRecord.text ⟨.unsigned, 5⟩ = "5\n" := by
  decide +kernel

/-! ## Metadata kinds (R55) and causes (R164) -/

theorem test_kind_sizes : [PrimKind.bool, .i8, .i16, .i32, .i64, .u8, .u16, .u32, .u64, .f32, .f64, .structRef,
    .arrayRef].map PrimKind.size = [1, 1, 2, 4, 8, 1, 2, 4, 8, 4, 8, 8, 8] := by decide
theorem test_kind_tags : [PrimKind.bool, .i8, .i16, .i32, .i64, .u8, .u16, .u32, .u64, .f32, .f64, .structRef,
    .arrayRef].map (fun k => k.tagKind.code) = [0, 2, 2, 2, 2, 0, 0, 0, 0, 4, 8, 1, 17] := by decide
theorem test_kind_extend : PrimKind.i8.extend 0x80 = 0xFFFFFFFFFFFFFF80 ∧ PrimKind.u8.extend 0x80 = 0x80 ∧
    PrimKind.i32.extend 0x7FFFFFFF = 0x7FFFFFFF ∧ PrimKind.f32.extend 0xBF800000 = 0xBF800000 := by decide
theorem test_type_size : TypeMeta.size ⟨[⟨"a", .u32, 0⟩, ⟨"b", .f64, 8⟩]⟩ = 16 ∧ TypeMeta.size ⟨[]⟩ = 0 := by decide
theorem test_cause_codes : [Cause.illegalOpcode, .ipOutOfRange, .jumpOutOfRange, .notAPointer, .notAnArray,
    .arrayIndexOutOfBounds, .addressOutOfRange, .unknownType, .unknownField, .invalidArraySpan, .outOfMemory,
    .stackOverflow, .stackUnderflow, .stackFrameOutOfBounds, .badFrame, .divideByZero, .allocWrongLevel,
    .allocAddressOutOfNode, .allocInvalidFree].map (fun c => c.code.toNat) = (List.range 19).map (· + 1) := by decide

/-! ## Encoding statements -/

theorem test_witness_PaddingIgnored : decode 0x0705BEEF = .instr (.push 5) ∧
    (0x07050000 : Word) &&& Format.a.mask = 0x0705BEEF &&& Format.a.mask ∧ decode 0x07050000 = .instr (.push 5) := by
  decide
theorem test_witness_IllegalOpcodesRefused :
    ((0x39FFFFFF : Word).extractLsb' 24 8).toNat < 0x3A ∧ 0x3A ≤ ((0x3A000000 : Word).extractLsb' 24 8).toNat ∧
    (running [0xFF123456]).status = .running ∧ (running [0xFF123456]).code[0]? = some 0xFF123456 ∧
    afterStep (running [0xFF123456]) err = some (.runtimeError, 1, 0) := by decide +kernel

/-! ## Statements about steps and runs -/

theorem test_witness_StepFetchesDecodesExecutes :
    idle.status ≠ .running ∧ afterStep idle (· == idle) = some true ∧
    (running []).status = .running ∧ (running []).code.length = (running []).ip.toNat ∧
    afterStep (running []) err = some (.runtimeError, 2, 0) ∧
    decode 0x3A000000 = .illegal 0x3A ∧ afterStep (running [0x3A000000]) err = some (.runtimeError, 1, 0) ∧
    decode 0x02000005 = .instr (.constLow 0 5) ∧ afterStep (running [0x02000005]) (cell 0) = some (5, 0) := by
  decide +kernel
theorem test_witness_RunEndsOnlyByHaltOrError :
    afterStep (running [0x02000005]) (·.status) = some .running ∧
    afterStep (running [0x00000000]) (fun t => (t.status, t.resultPort)) = some (.halted, some .ok) ∧
    afterStep (running [0x1B000102]) (fun t => (t.status, t.resultPort, t.cause)) =
      some (.runtimeError, some .runtimeError, 16) := by decide +kernel
theorem test_witness_GetLineWalksRuns :
    getLine [⟨7, 2⟩, ⟨9, 1⟩] 1 = 7 ∧ getLine [⟨7, 2⟩, ⟨9, 1⟩] 2 = 9 ∧ getLine [⟨7, 2⟩, ⟨9, 1⟩] 3 = -1 := by decide
theorem test_fault_line :
    afterStep { running [0x0D000000] with lineTable := [⟨12, 1⟩] } (fun t => (t.faultLine, t.diag)) =
      some (12, [⟨15, 0, 12⟩]) := by decide +kernel
theorem test_witness_ResetState : idle = State.resetWith small ∧ idle.status ≠ .running ∧
    State.reset.status ≠ .running := by decide +kernel
theorem test_start_keeps_code :
    afterHost .start { idle with code := [5], ip := 3, flag := true } (fun t => (t.code, t.ip, t.flag, t.status)) =
      some ([5], 0, false, .running) := by decide +kernel
theorem test_witness_HostProtocol : (running []).status = .running ∧ idle.status ≠ .running ∧
    [(0 : Word)].length ≤ idle.cfg.codeCap ∧ ([] : List TypeMeta).length ≤ 2 ^ 32 := by decide +kernel
theorem test_load_too_large :
    hostRequest (.loadCode [0, 0]) (State.resetWith { small with codeCap := 1 }) = .refused .loadTooLarge := rfl

/-! ## The invariant's statements -/

theorem test_witness_ResetHasInv : small.Legal := by
  constructor <;> decide

/-- The invariant holds in a running state with a word of code. -/
theorem running_inv : (running [0x07000000]).Inv where
  cfg_legal := test_witness_ResetHasInv
  code_fits := by decide +kernel
  ip_fits := by decide +kernel
  stack_fits := by decide +kernel
  reg_tags r := by simp [LegalTag, running, idle, State.resetWith, State.tag]
  slot_tags := nofun
  pointers := ⟨.nil, fun k => ⟨nofun, fun ⟨_, h, _⟩ => nomatch h⟩⟩
  slab_wf := .nil
  slab_in := nofun
  allocator := ⟨⟨rfl, rfl, by decide⟩, by decide +kernel⟩
  report := ⟨nofun, fun _ => ⟨rfl, rfl, rfl, rfl⟩⟩

theorem test_witness_StepKeepsInv :
    (running [0x07000000]).Inv ∧ afterStep (running [0x07000000]) (·.stack) = some [⟨0, 0⟩] :=
  ⟨running_inv, by decide +kernel⟩
theorem test_witness_NoStepStops : (running [0x07000000]).Inv := running_inv

/-- The invariant holds after a run that ended in an error. -/
theorem ended_inv : ((running [0x07000000]).takeRuntimeError .stackUnderflow).Inv :=
  { running_inv with report := ⟨fun _ => ⟨by decide, rfl, rfl⟩, fun h => absurd rfl h⟩ }

theorem test_witness_HostRequestsKeepInv : ((running [0x07000000]).takeRuntimeError .stackUnderflow).Inv ∧
    ∃ t, hostRequest .start ((running [0x07000000]).takeRuntimeError .stackUnderflow) = .next t :=
  ⟨ended_inv, _, rfl⟩
theorem test_witness_CodeChangesOnlyByLoad :
    afterStep (running [0x02000005]) (·.code) = some [0x02000005] ∧
    afterHost (.loadCode [1, 2]) idle (·.code) = some [1, 2] := by decide +kernel
theorem test_witness_OutputAppendOnly :
    after (.out 0) idle (·.out.length) = some 1 ∧ after .halt idle (·.out.length) = some 1 ∧
    after (.move 0 1) idle (·.out.length) = some 0 := by decide +kernel
theorem test_witness_ReservedTagBitsPreserved :
    after (.constLow 3 1) { idle with tags := idle.tags.set 3 0b10100001 } (·.tag 3) = some 0b10100000 ∧
    after .halt { idle with tags := idle.tags.set 3 0b10100001 } (·.tag 3) = some 0 := by decide +kernel
theorem test_witness_FlagWriters :
    after (.equal 0 0 1) idle (·.flag) = some true ∧
    after (.jumpIf 0xFFFFFF) { running [0] with flag := true } (·.flag) = some false ∧
    after .halt { idle with flag := true } (·.flag) = some false := by decide +kernel
theorem test_witness_FlagReaders : after (.push 0) idle (·.flag) = some false ∧
    after (.push 0) (idle.setFlag true) (·.flag) = some true := by decide +kernel
theorem test_witness_UnreadStateIsInvisible :
    SameToProgram (running [0x08000000]) { running [0x08000000] with lineTable := [⟨4, 9⟩], faultIp := 7 } ∧
    afterStep (running [0x08000000]) err = some (.runtimeError, 13, 0) :=
  ⟨by constructor <;> rfl, by decide +kernel⟩

/-! ## Statements about arithmetic and comparison -/

theorem test_witness_IntegerDivision :
    (two 5 0).reg 1 = 0 ∧ after (.intDivide 0 1 2) (two 5 0) err = some (.runtimeError, 16, 0) ∧
    after (.uintDivide 0 1 2) (two 5 0) err = some (.runtimeError, 16, 0) ∧
    (two 7 0xFFFFFFFFFFFFFFFE).reg 1 ≠ 0 ∧
    after (.intDivide 0 1 2) (two 7 0xFFFFFFFFFFFFFFFE) (cell 2) = some (0xFFFFFFFFFFFFFFFD, 0b00010) := by
  decide +kernel
theorem test_witness_FloatArithmetic :
    (0x3FC00000 : BitVec 32) = ((two 0xFFFFFFFF3FC00000 0).reg 0).extractLsb' 0 32 := by decide +kernel
theorem test_witness_RoundingIsNearestEven :
    binary32.roundMag 16777217 1 = 16777216 ∧ 16777217 < binary32.infBits ∧
    binary32.distance 16777216 16777217 1 = binary32.distance 16777217 16777217 1 ∧
    (2 * binary32.magOf (binary32.infBits - 1) + 2 ^ (binary32.maxExpField - 2)) * 1 ≤ 2 * 2 ^ 277 := by decide +kernel
theorem test_witness_FiniteResultsAreCorrectlyRounded :
    (binary32, 149) ∈ [(binary32, 149), (binary64, 1074)] ∧ (∃ p, binary32.unpack p = .finite true 1) ∧
    (∃ q, binary32.unpack q = .finite false 3) ∧ (3 : Nat) ≠ 0 :=
  ⟨by decide, ⟨0x80000001, by decide⟩, ⟨3, by decide⟩, by decide⟩
theorem test_witness_SpecialFloatResults : binary64 ∈ [binary32, binary64] ∧ (1 : Nat) ≠ 0 := by decide
theorem test_witness_FloatComparisons :
    FloatVal.nan = f32 (((two 0x7FC00000 0).reg 0).extractLsb' 0 32) ∧
    FloatVal.finite false 0 = f32 (((two 0x7FC00000 0).reg 1).extractLsb' 0 32) := by decide +kernel
theorem test_witness_DoubleComparisons : FloatVal.inf true = f64 ((two 0xFFF0000000000000 1).reg 0) ∧
    FloatVal.finite false 1 = f64 ((two 0xFFF0000000000000 1).reg 1) := by decide +kernel

/-! ## Statements about control transfer: targets −1, 0, `CODE_SIZE − 1` and `CODE_SIZE` -/

theorem test_witness_JumpGoesToRelativeTarget :
    after (.jump 0xFFFFFF) (running [0, 0]) (·.ip) = some 0 ∧ after (.jump 0) (running [0, 0]) (·.ip) = some 1 ∧
    after (.jump 1) (running [0, 0]) err = some (.runtimeError, 3, 0) ∧
    after (.jump 0xFFFFFE) (running [0, 0]) err = some (.runtimeError, 3, 0) := by decide +kernel
theorem test_jump_example : after (.jump 3) { running (List.replicate 12 0) with ip := 3 } (·.ip) = some 7 := by
  decide +kernel
theorem test_witness_JumpIfTakesAndClears :
    after (.jumpIf 0xFFFFFC) { running (List.replicate 12 0) with ip := 7, flag := true }
      (fun t => (t.ip, t.flag)) = some (4, false) ∧
    after (.jumpIf 0) { running [0, 0] with flag := true } (fun t => (t.ip, t.flag)) = some (1, false) ∧
    after (.jumpIf 1) { running [0, 0] with flag := true } (fun t => (err t, t.flag)) =
      some ((.runtimeError, 3, 0), true) ∧
    after (.jumpIf 0x7FFFFF) (running [0, 0]) (·.ip) = some 1 := by decide +kernel
theorem test_witness_AbsoluteJumps :
    after (.jumpAbs 9) (withRegs (running [0, 0]) [(9, 1, .raw)]) (·.ip) = some 1 ∧
    after (.jumpAbs 9) (withRegs (running [0, 0]) [(9, 2, .raw)]) err = some (.runtimeError, 3, 0) ∧
    after (.jumpAbsIf 9) { withRegs (running [0, 0]) [(9, 1, .raw)] with flag := true }
      (fun t => (t.ip, t.flag)) = some (1, false) ∧
    after (.jumpAbsIf 9) { withRegs (running [0, 0]) [(9, 2, .raw)] with flag := true } err =
      some (.runtimeError, 3, 0) ∧
    after (.jumpAbsIf 9) (withRegs (running [0, 0]) [(9, 99, .raw)]) (·.ip) = some 1 := by decide +kernel

/-! ## Statements about the stack: sizes 0, 2 and the full 3 -/

/-- Running with a stack and a frame register. -/
def stacked (slots : List Slot) (frame : Cell64) : State :=
  withRegs { running (List.replicate 5 0) with stack := slots } [(254, frame, .raw)]

theorem test_witness_PushAppendsSlot :
    after (.push 0) (withRegs (stacked [⟨1, 0⟩, ⟨2, 0⟩] 0) [(0, 7, .ptr)])
      (fun t => (t.stack, t.pointerSlots)) = some ([⟨1, 0⟩, ⟨2, 0⟩, ⟨7, 1⟩], [2]) ∧
    after (.push 0) (stacked [⟨1, 0⟩, ⟨2, 0⟩, ⟨3, 0⟩] 0) err = some (.runtimeError, 12, 0) := by decide +kernel
theorem test_witness_PopRemovesSlot :
    after (.pop 1) { stacked [⟨4, 0b00010⟩, ⟨5, 1⟩] 0 with pointerSlots := [1] }
      (fun t => (cell 1 t, t.stack, t.pointerSlots)) = some ((5, 1), [⟨4, 0b00010⟩], []) ∧
    after (.pop 254) (stacked [⟨4, 0b00010⟩] 9) (cell 254) = some (4, 0b00010) ∧
    after (.pop 1) (stacked [] 0) err = some (.runtimeError, 13, 0) := by decide +kernel
theorem test_witness_PushIpPushesIndex :
    after (.pushIp 3) (stacked [] 0) (·.stack) = some [⟨4, 0⟩] ∧
    after (.pushIp 0xFFFFFF) (stacked [⟨1, 0⟩, ⟨2, 0⟩] 0) (·.stack) = some [⟨1, 0⟩, ⟨2, 0⟩, ⟨0, 0⟩] ∧
    after (.pushIp 0) (stacked [⟨1, 0⟩, ⟨2, 0⟩, ⟨3, 0⟩] 0) err = some (.runtimeError, 12, 0) ∧
    after (.pushIp 4) (stacked [⟨1, 0⟩, ⟨2, 0⟩, ⟨3, 0⟩] 0) err = some (.runtimeError, 3, 0) := by decide +kernel
theorem test_witness_NewStackFrameOpensFrame :
    after .newStackFrame (stacked [⟨4, 0⟩] 0) (fun t => (t.stack, cell 254 t)) = some ([⟨4, 0⟩, ⟨0, 0⟩], (2, 0)) ∧
    after .newStackFrame (stacked [⟨1, 0⟩, ⟨2, 0⟩, ⟨3, 0⟩] 0) err = some (.runtimeError, 12, 0) := by decide +kernel
theorem test_witness_ReturnClosesFrame :
    after .ret (stacked [⟨4, 0⟩, ⟨0, 0⟩, ⟨7, 0⟩] 2) (fun t => (t.stack, cell 254 t, t.ip)) =
      some ([⟨4, 0⟩], (0, 0), 4) ∧
    after .ret (stacked [⟨1, 0⟩, ⟨4, 0⟩, ⟨0, 0⟩] 3) (fun t => (t.stack, t.ip)) = some ([⟨1, 0⟩, ⟨4, 0⟩], 4) ∧
    after .ret (stacked [⟨5, 0⟩, ⟨0, 0⟩] 2) err = some (.runtimeError, 3, 0) ∧
    after .ret (stacked [⟨4, 0⟩, ⟨0, 0⟩] 1) err = some (.runtimeError, 15, 0) ∧
    after .ret (stacked [⟨4, 0⟩, ⟨0, 0⟩] 3) err = some (.runtimeError, 15, 0) := by decide +kernel
theorem test_witness_FrameMoves :
    after (.moveFromStackFrame 10 11) (stacked [⟨4, 0⟩, ⟨0, 0⟩, ⟨7, 0b00010⟩] 2) (cell 11) = some (7, 0b00010) ∧
    after (.moveToStackFrame 10 12) (withRegs (stacked [⟨4, 0⟩, ⟨0, 0⟩, ⟨7, 0⟩] 2) [(12, 9, .ptr)])
      (fun t => (t.stack, t.pointerSlots)) = some ([⟨4, 0⟩, ⟨0, 0⟩, ⟨9, 1⟩], [2]) ∧
    after (.moveFromStackFrame 10 11) (withRegs (stacked [⟨4, 0⟩] 2) [(10, 0xFFFFFFFFFFFFFFFE, .raw)]) err =
      some (.runtimeError, 14, 0) ∧
    after (.moveToStackFrame 10 11) (stacked [⟨4, 0⟩] 1) err = some (.runtimeError, 14, 0) := by decide +kernel
theorem test_witness_CallReturnSymmetry : ∃ s1 s2 t,
    exec (.pushIp 2) (stacked [⟨1, 0⟩] 0) = .next s1 ∧ exec .newStackFrame s1 = .next s2 ∧
    (stacked [⟨1, 0⟩] 0).cfg.Legal ∧ s2.cfg = s1.cfg ∧ s2.stack.take s2.stack.length = s2.stack ∧
    exec .ret s2 = .next t ∧ t.stack = [⟨1, 0⟩, ⟨3, 0⟩] ∧ t.ip = 3 :=
  ⟨_, _, _, rfl, rfl, test_witness_ResetHasInv, rfl, by decide +kernel, rfl, by decide +kernel, by decide +kernel⟩

/-! ## Statements about the allocator and the heap -/

theorem test_witness_HeapAccessIsLittleEndian :
    inSlab small 0x1000 8 ∧ inSlab small 0x1038 8 ∧ ¬ inSlab small 0x1039 8 ∧ ¬ inSlab small 0xFFF 1 ∧
    ¬ inSlab small 0x1040 1 ∧
    (idle.memWrite 0x1000 4 0x10000012A).toOption.map (·.slab.cells) =
      some [(0x1000, 0x2A), (0x1001, 1), (0x1002, 0), (0x1003, 0)] ∧
    (({ idle with slab := idle.slab.writeLE 0x1000 0x12A 4 }).memRead 0x1000 2).toOption = some 0x12A := by
  decide +kernel

/-- The tree after reset has the invariant. -/
theorem root_inv : AllocatorInv small (.leaf 6 0x1000 false) 6 := ⟨⟨rfl, rfl, by decide⟩, by decide⟩

/-- A slab of 64 bytes with its first 16 allocated. -/
def carved : Node :=
  .split 6 0x1000 (.split 5 0x1000 (.leaf 4 0x1000 true) (.leaf 4 0x1010 false)) (.leaf 5 0x1020 false)

theorem carved_inv : AllocatorInv small carved 2 :=
  ⟨⟨rfl, rfl, by decide, by decide, ⟨rfl, rfl, by decide, by decide, ⟨rfl, rfl, by decide⟩, ⟨rfl, rfl, by decide⟩⟩,
    ⟨rfl, rfl, by decide⟩⟩, by decide⟩

theorem test_witness_AllocFindsLowestBlock :
    AllocatorInv small carved 2 ∧ LowestFree carved 4 0x1010 ∧ LowestFree carved 5 0x1020 ∧
    allocBlock small (.leaf 6 0x1000 false) 6 0 = .found 0x1000 carved 2 ∧
    (∀ leaf ∈ carved.leaves, leaf.2.2 = false → leaf.2.1 < 6) ∧ allocBlock small carved 2 6 = .oom := by
  refine ⟨carved_inv, ⟨⟨4, by decide, by decide⟩, ?_⟩, ⟨⟨5, by decide, by decide⟩, ?_⟩, by decide, by decide, by decide⟩ <;>
  · intro b e h hk
    simp [carved, Node.leaves] at h
    omega
theorem test_witness_FreeAllRestoresRoot : AllocatorInv small carved 2 ∧ [(0x1000, 4)].Perm carved.allocatedLeaves :=
  ⟨carved_inv, .refl _⟩
theorem test_witness_AllocThenFreeRestoresTree : AllocatorInv small (.leaf 6 0x1000 false) 6 ∧
    allocBlock small (.leaf 6 0x1000 false) 6 4 = .found 0x1000 carved 2 ∧
    freeBlock small carved 2 0x1000 4 = .ok (.leaf 6 0x1000 false, 6) := ⟨root_inv, by decide, rfl⟩
theorem test_witness_LeavesPartitionSlab : AllocatorInv small carved 2 ∧ (0x1020, 5, false) ∈ carved.leaves :=
  ⟨carved_inv, by decide⟩
theorem test_free_faults :
    freeBlock small carved 2 0x1000 6 = .error .allocInvalidFree ∧
    freeBlock small carved 2 0x1000 7 = .error .allocWrongLevel ∧
    freeBlock small carved 2 0x1040 4 = .error .allocAddressOutOfNode ∧
    freeBlock small carved 2 0x1010 4 = .error .allocInvalidFree := ⟨rfl, rfl, rfl, rfl⟩

/-- Two types: `U32` at 0 and `F64` at 8; `I8` at 63, the slab's last byte, and `I64` at 57, one byte too far. -/
def typed : State :=
  { running [0] with metadata := [⟨[⟨"a", .u32, 0⟩, ⟨"b", .f64, 8⟩]⟩, ⟨[⟨"c", .i8, 63⟩, ⟨"d", .i64, 57⟩]⟩] }

theorem test_witness_AllocGivesBlock :
    after (.alloc 1 2) typed (fun t => (cell 2 t, t.tree)) = some ((0x1000, 1), carved) ∧
    after (.alloc 1 2) (withRegs typed [(1, 2, .raw)]) err = some (.runtimeError, 8, 0) ∧
    after (.alloc 1 2) (withRegs typed [(1, 1, .raw)]) err = some (.runtimeError, 11, 0) ∧
    typed.metadata[1]?.map TypeMeta.size = some 65 ∧ allocBlock small typed.tree typed.pool 7 = .oom := by
  decide +kernel
theorem test_witness_AllocArrayWritesHeader :
    AllocatorInv typed.cfg typed.tree typed.pool ∧
    after (.allocArray 0 1 2) (withRegs typed [(0, 3, .raw), (1, 4, .raw)])
      (fun t => (cell 2 t, t.slab.cells.map (·.2))) =
        some ((0x1000, 0b10001), [3, 0, 0, 0, 0, 0, 0, 0, 4, 0, 0, 0, 0, 0, 0, 0]) ∧
    after (.allocArray 0 1 2) (withRegs typed [(0, 48, .raw), (1, 1, .raw)]) (cell 2) =
      some (0x1000, 0b10001) ∧
    after (.allocArray 0 1 2) (withRegs typed [(0, 49, .raw), (1, 1, .raw)]) err = some (.runtimeError, 11, 0) ∧
    after (.allocArray 0 1 2) (withRegs typed [(0, 3, .raw), (1, 3, .raw)]) err = some (.runtimeError, 10, 0) :=
  ⟨root_inv, by decide +kernel, by decide +kernel, by decide +kernel, by decide +kernel⟩

/-- Object pointer in register 2, selector in register 3, `0x1_0000_002A` in register 5. -/
def object (selector : Cell64) : State :=
  withRegs typed [(2, 0x1000, .ptr), (3, selector, .raw), (5, 0x10000002A, .raw)]

theorem test_witness_StructStoreWritesField :
    (object 0).fieldError 2 3 = none ∧
    after (.structStore 2 3 5) (object 0) (·.slab.cells) =
      some [(0x1000, 0x2A), (0x1001, 0), (0x1002, 0), (0x1003, 0)] ∧
    (object 0x100000000).fieldError 2 3 = none ∧
    after (.structStore 2 3 5) (object 0x100000000) (·.slab.cells) = some [(0x103F, 0x2A)] ∧
    (object 0x100000001).fieldError 2 3 = some .addressOutOfRange ∧
    (object 2).fieldError 2 3 = some .unknownField ∧ (object 0x200000000).fieldError 2 3 = some .unknownType ∧
    (object 0).fieldError 5 3 = some .notAPointer ∧
    after (.structStore 5 3 5) (object 0) err = some (.runtimeError, 4, 0) := by decide +kernel
theorem test_witness_StructLoadReadsField :
    ({ object 1 with slab := idle.slab.writeLE 0x1008 0x3FF8000000000000 8 }).fieldError 2 3 = none ∧
    after (.structLoad 2 3 4) { object 1 with slab := idle.slab.writeLE 0x1008 0x3FF8000000000000 8 } (cell 4) =
      some (0x3FF8000000000000, 0b01000) ∧
    after (.structLoad 2 3 4) { object 0x100000000 with slab := idle.slab.setByte 0x103F 0x80 } (cell 4) =
      some (0xFFFFFFFFFFFFFF80, 0b00010) ∧
    after (.structLoad 2 3 4) (object 0x100000001) err = some (.runtimeError, 7, 0) := by decide +kernel

/-- An array of 12 elements of 4 bytes at 0x1000, pointer in register 2, index in register 3. -/
def array (index : Cell64) : State :=
  let header := (idle.slab.writeLE 0x1000 12 8).writeLE 0x1008 4 8
  withRegs { typed with slab := (header.writeLE 0x1014 20 4).writeLE 0x103C 0xFFFFFFFF 4 }
    [(2, 0x1000, .arrayPtr), (3, index, .raw), (5, 0x10000002A, .raw)]

theorem test_witness_ArrayLoadReadsElement :
    (array 1).arrayError 2 3 = none ∧ after (.arrayLoad 2 3 4) (array 1) (cell 4) = some (20, 0) ∧
    (array 11).arrayError 2 3 = none ∧ after (.arrayLoad 2 3 4) (array 11) (cell 4) = some (0xFFFFFFFF, 0) ∧
    (array 12).arrayError 2 3 = some .arrayIndexOutOfBounds ∧
    after (.arrayLoad 2 3 4) (array 12) err = some (.runtimeError, 6, 0) ∧
    (array 1).arrayError 3 3 = some .notAPointer ∧
    (withRegs (array 1) [(2, 0x1000, .ptr)]).arrayError 2 3 = some .notAnArray ∧
    (withRegs (array 1) [(2, 0x1031, .arrayPtr)]).arrayError 2 3 = some .addressOutOfRange := by decide +kernel
theorem test_witness_ArrayStoreWritesElement :
    (array 0).arrayError 2 3 = none ∧
    after (.arrayStore 2 3 5) (array 0) (fun t => t.slab.byte 0x1010) = some 0x2A ∧
    ({ array 0 with slab := (array 0).slab.writeLE 0x1008 3 8 }).arrayError 2 3 = some .invalidArraySpan ∧
    ({ array 12 with slab := (array 0).slab.writeLE 0x1000 13 8 }).arrayError 2 3 = some .addressOutOfRange ∧
    after (.arrayStore 2 3 5) (array 12) err = some (.runtimeError, 6, 0) := by decide +kernel

theorem test_witness_HaltClearsMachine : AllocatorInv small carved 2 ∧
    after .halt { running [0] with tree := carved, pool := 2 } (fun t => (t.tree, t.pool)) =
      some (.leaf 6 0x1000 false, 6) := ⟨carved_inv, by decide +kernel⟩

/-! ## The word the host asks about -/

theorem test_withFetchWord :
    afterStep (State.reset.withFetchWord 32 0x02000005) (fun t => (cell 0 t, t.ip)) = some ((5, 0), 1) := by
  decide +kernel

end Sys2Proof.Tests
end

section
/-! PROOFS. Rounding to a format is to nearest, ties to even, and the four operations on finite operands are the exact
result so rounded (00_scope.md R11, 42_arithmetic.md R104). The idea: continue the scale of magnitudes past the
largest finite pattern, so that infinity is one more point of it; then "nearest, ties to even" and the overflow
threshold are both facts about midpoints of the scale. -/

namespace Sys2Proof.Machine

/-! ## The scale of magnitudes -/

/-- The magnitude at a pattern without sign, the exponent field unbounded: on finite patterns it is `magOf`
(`magOf_eq_magAt`), and at `infBits` it is what the pattern after the largest finite one would be worth. -/
def FloatFormat.magAt (F : FloatFormat) (p : Nat) : Nat :=
  if p / 2 ^ F.fracBits = 0 then p % 2 ^ F.fracBits
  else (2 ^ F.fracBits + p % 2 ^ F.fracBits) * 2 ^ (p / 2 ^ F.fracBits - 1)

/-- A significand `q` counted in quanta of `2 ^ k` units stands at the pattern `k * 2 ^ fracBits + q`, its upper end
`q = 2 * 2 ^ fracBits` (the first pattern of the next exponent) included. -/
theorem magAt_quanta (F : FloatFormat) {k q : Nat} (hlow : k = 0 ∨ 2 ^ F.fracBits ≤ q)
    (hhigh : q ≤ 2 * 2 ^ F.fracBits) : F.magAt (k * 2 ^ F.fracBits + q) = q * 2 ^ k := by
  have hB : 0 < 2 ^ F.fracBits := Nat.two_pow_pos _
  unfold FloatFormat.magAt
  generalize 2 ^ F.fracBits = B at *
  rcases Nat.lt_or_ge q B with hq | hq
  · obtain rfl : k = 0 := by omega
    simp [Nat.div_eq_of_lt hq, Nat.mod_eq_of_lt hq]
  rcases Nat.lt_or_ge q (2 * B) with hq2 | hq2
  · have hp : k * B + q = (q - B) + B * (k + 1) := by rw [Nat.mul_succ, Nat.mul_comm]; omega
    have hfrac : q - B < B := by omega
    rw [hp, Nat.add_mul_div_left _ _ hB, Nat.add_mul_mod_self_left, Nat.div_eq_of_lt hfrac, Nat.mod_eq_of_lt hfrac,
      Nat.add_sub_cancel' hq]
    simp
  · obtain rfl : q = 2 * B := by omega
    rw [← Nat.add_mul, Nat.mul_div_cancel _ hB, Nat.mul_mod_left]
    simp [Nat.pow_succ, Nat.mul_comm, Nat.mul_assoc]

/-- Every pattern is a significand in quanta, and so is the next one, with the same quantum. -/
theorem exists_quanta (F : FloatFormat) (p : Nat) : ∃ q, p = (p / 2 ^ F.fracBits - 1) * 2 ^ F.fracBits + q ∧
    (p / 2 ^ F.fracBits - 1 = 0 ∨ 2 ^ F.fracBits ≤ q) ∧ q < 2 * 2 ^ F.fracBits := by
  have hdiv := Nat.div_add_mod' p (2 ^ F.fracBits)
  have hmod := Nat.mod_lt p (Nat.two_pow_pos F.fracBits)
  rcases hE : p / 2 ^ F.fracBits with _ | E <;> rw [hE] at hdiv
  · exact ⟨p % 2 ^ F.fracBits, by omega, .inl rfl, by omega⟩
  · rw [Nat.succ_mul] at hdiv
    exact ⟨2 ^ F.fracBits + p % 2 ^ F.fracBits, by rw [Nat.add_sub_cancel]; omega, .inr (by omega), by omega⟩

/-- One pattern further is one quantum more. -/
theorem magAt_succ (F : FloatFormat) (p : Nat) :
    F.magAt (p + 1) = F.magAt p + 2 ^ (p / 2 ^ F.fracBits - 1) := by
  obtain ⟨q, hp, hlow, hhigh⟩ := exists_quanta F p
  generalize p / 2 ^ F.fracBits - 1 = k at *
  rw [hp, Nat.add_assoc, magAt_quanta F hlow hhigh.le, magAt_quanta F (hlow.imp_right (by omega)) hhigh, Nat.succ_mul]

theorem magAt_strictMono (F : FloatFormat) : StrictMono F.magAt :=
  strictMono_nat_of_lt_succ fun p => by rw [magAt_succ]; exact Nat.lt_add_of_pos_right (Nat.two_pow_pos _)

/-! ## Nearest on the unbounded scale -/

/-- The number `num / den` lies between the midpoints from `p` to every other pattern of the scale, and on a midpoint
only if `p` is even. -/
structure FloatFormat.NearestOnScale (F : FloatFormat) (num den p : Nat) : Prop where
  below : ∀ m < p, (F.magAt m + F.magAt p) * den ≤ 2 * num ∧
    ((F.magAt m + F.magAt p) * den = 2 * num → p % 2 = 0)
  above : ∀ m > p, 2 * num ≤ (F.magAt p + F.magAt m) * den ∧
    (2 * num = (F.magAt p + F.magAt m) * den → p % 2 = 0)

theorem magAt_mul_lt (F : FloatFormat) {den m p : Nat} (hden : 0 < den) (h : m < p) :
    F.magAt m * den < F.magAt p * den := Nat.mul_lt_mul_of_pos_right (magAt_strictMono F h) hden

theorem magAt_mul_le (F : FloatFormat) (den : Nat) {m p : Nat} (h : m ≤ p) :
    F.magAt m * den ≤ F.magAt p * den := Nat.mul_le_mul_right _ ((magAt_strictMono F).monotone h)

/-- Only the midpoint of two neighbours matters: the number in the half of their interval towards the lower one. -/
theorem nearestOnScale_lower (F : FloatFormat) {num den p : Nat} (hden : 0 < den)
    (hfloor : F.magAt p * den ≤ num) (hmid : 2 * num ≤ (F.magAt p + F.magAt (p + 1)) * den)
    (htie : 2 * num = (F.magAt p + F.magAt (p + 1)) * den → p % 2 = 0) : F.NearestOnScale num den p := by
  constructor
  case below =>
    intro m hm
    have hlt := magAt_mul_lt F hden hm
    rw [Nat.add_mul]; omega
  case above =>
    intro m hm
    have hle := magAt_mul_le F den (show p + 1 ≤ m from hm)
    rw [Nat.add_mul] at *; omega

/-- Likewise in the half towards the upper one. -/
theorem nearestOnScale_upper (F : FloatFormat) {num den p : Nat} (hden : 0 < den)
    (hceil : num < F.magAt (p + 1) * den) (hmid : (F.magAt p + F.magAt (p + 1)) * den ≤ 2 * num)
    (htie : (F.magAt p + F.magAt (p + 1)) * den = 2 * num → (p + 1) % 2 = 0) :
    F.NearestOnScale num den (p + 1) := by
  constructor
  case below =>
    intro m hm
    have hle := magAt_mul_le F den (Nat.le_of_lt_succ hm)
    rw [Nat.add_mul] at *; omega
  case above =>
    intro m hm
    have hlt := magAt_mul_lt F hden hm
    rw [Nat.add_mul]; omega

/-! ## What `roundMag` answers -/

/-- `roundMag` before it is cut off at infinity. -/
def FloatFormat.roundScale (F : FloatFormat) (num den : Nat) : Nat :=
  (Nat.log2 (num / den) - F.fracBits) * 2 ^ F.fracBits +
    roundHalfEven num (den * 2 ^ (Nat.log2 (num / den) - F.fracBits))

theorem roundMag_eq_min (F : FloatFormat) (num den : Nat) :
    F.roundMag num den = min (F.roundScale num den) F.infBits := rfl

theorem roundHalfEven_floor_or_succ (num den : Nat) :
    roundHalfEven num den = num / den ∨ roundHalfEven num den = num / den + 1 := by
  simp only [roundHalfEven]; split <;> simp

/-- The quantum `roundMag` chooses keeps `fracBits + 1` bits of the number, or is one unit. -/
theorem quanta_bounds (f num den : Nat) :
    (Nat.log2 (num / den) - f = 0 ∨ 2 ^ f ≤ num / (den * 2 ^ (Nat.log2 (num / den) - f))) ∧
      num / (den * 2 ^ (Nat.log2 (num / den) - f)) < 2 * 2 ^ f := by
  rw [← Nat.div_div_eq_div_mul]
  generalize num / den = x
  constructor
  · refine or_iff_not_imp_left.mpr fun hk => ?_
    have hx : x ≠ 0 := by rintro rfl; simp at hk
    rw [Nat.le_div_iff_mul_le (Nat.two_pow_pos _), ← Nat.pow_add, Nat.add_sub_of_le (by omega)]
    exact Nat.log2_self_le hx
  · rw [Nat.div_lt_iff_lt_mul (Nat.two_pow_pos _), ← Nat.pow_succ', ← Nat.pow_add]
    exact Nat.lt_of_lt_of_le Nat.lt_log2_self (Nat.pow_le_pow_right (by omega) (by omega))

theorem roundScale_nearest (F : FloatFormat) (hf : 0 < F.fracBits) (num den : Nat) (hden : 0 < den) :
    F.NearestOnScale num den (F.roundScale num den) := by
  obtain ⟨hlow, hhigh⟩ := quanta_bounds F.fracBits num den
  have heven : 2 ∣ 2 ^ F.fracBits := dvd_pow_self 2 hf.ne'
  unfold FloatFormat.roundScale
  generalize Nat.log2 (num / den) - F.fracBits = k at *
  have hD : 0 < den * 2 ^ k := Nat.mul_pos hden (Nat.two_pow_pos k)
  have hdiv := Nat.div_add_mod' num (den * 2 ^ k)
  have hmod := Nat.mod_lt num hD
  have hround := roundHalfEven_floor_or_succ num (den * 2 ^ k)
  obtain ⟨hup, hdown, heven_of_tie⟩ := roundHalfEven_spec num (den * 2 ^ k) hD
  generalize num / (den * 2 ^ k) = q at *
  have hparity : ∀ j, (k * 2 ^ F.fracBits + j) % 2 = j % 2 := fun j => by
    rw [Nat.add_mod, Nat.mod_eq_zero_of_dvd (heven.mul_left k)]; simp
  have hfloor : F.magAt (k * 2 ^ F.fracBits + q) * den = q * (den * 2 ^ k) := by
    rw [magAt_quanta F hlow hhigh.le, Nat.mul_right_comm, Nat.mul_assoc]
  have hceil : F.magAt (k * 2 ^ F.fracBits + q + 1) * den = q * (den * 2 ^ k) + den * 2 ^ k := by
    rw [Nat.add_assoc, magAt_quanta F (hlow.imp_right (by omega)) hhigh, Nat.mul_right_comm, Nat.mul_assoc,
      Nat.succ_mul]
  have hmid := Nat.add_mul (F.magAt (k * 2 ^ F.fracBits + q)) (F.magAt (k * 2 ^ F.fracBits + q + 1)) den
  rcases hround with hr | hr <;> rw [hr] at hup hdown heven_of_tie ⊢
  · exact nearestOnScale_lower F hden (by omega) (by omega)
      fun htie => (hparity q).trans (heven_of_tie (.inr (by omega)))
  · rw [Nat.add_one_mul q] at hup hdown heven_of_tie
    rw [← Nat.add_assoc]
    exact nearestOnScale_upper F hden (by omega) (by omega)
      fun htie => (hparity (q + 1)).trans (heven_of_tie (.inl (by omega)))

/-! ## Patterns of a format -/

section Patterns
variable (F : FloatFormat)

theorem infBits_lt_signBit : F.infBits < F.signBit := by
  unfold FloatFormat.infBits FloatFormat.signBit FloatFormat.maxExpField
  rw [Nat.pow_add]
  exact Nat.mul_lt_mul_of_pos_right (Nat.sub_lt (Nat.two_pow_pos _) Nat.one_pos) (Nat.two_pow_pos _)

/-- The three fields of a pattern with its sign. -/
theorem withSign_fields (neg : Bool) {m : Nat} (hm : m < F.signBit) :
    decide (F.withSign neg m / F.signBit % 2 = 1) = neg ∧
      F.withSign neg m / 2 ^ F.fracBits % 2 ^ F.expBits = m / 2 ^ F.fracBits ∧
      F.withSign neg m % 2 ^ F.fracBits = m % 2 ^ F.fracBits := by
  have hsign : F.signBit = 2 ^ F.fracBits * 2 ^ F.expBits := by
    rw [← Nat.pow_add, Nat.add_comm]; rfl
  have hexp : m / 2 ^ F.fracBits < 2 ^ F.expBits := Nat.div_lt_of_lt_mul (hsign ▸ hm)
  cases neg
  case false => simp [Nat.div_eq_of_lt hm, Nat.mod_eq_of_lt hexp]
  case true =>
    have hpos : 0 < F.signBit := Nat.two_pow_pos _
    rw [withSign_true, Nat.add_div_left _ hpos, Nat.div_eq_of_lt hm, hsign, Nat.mul_add_div (Nat.two_pow_pos _),
      Nat.add_mod_left, Nat.mod_eq_of_lt hexp, Nat.mul_add_mod]
    simp

theorem unpack_withSign_finite (neg : Bool) {m : Nat} (hm : m < F.infBits) :
    F.unpack (F.withSign neg m) = .finite neg (F.magAt m) := by
  obtain ⟨hneg, hexp, hfrac⟩ := withSign_fields F neg (hm.trans (infBits_lt_signBit F))
  have hmax : m / 2 ^ F.fracBits ≠ F.maxExpField :=
    ((Nat.div_lt_iff_lt_mul (Nat.two_pow_pos _)).mpr hm).ne
  simp only [FloatFormat.unpack, FloatFormat.magAt, hneg, hexp, hfrac, hmax, if_false]
  split <;> rfl

theorem unpack_withSign_inf (neg : Bool) : F.unpack (F.withSign neg F.infBits) = .inf neg := by
  obtain ⟨hneg, hexp, hfrac⟩ := withSign_fields F neg (infBits_lt_signBit F)
  have hmax : F.infBits / 2 ^ F.fracBits = F.maxExpField := Nat.mul_div_cancel _ (Nat.two_pow_pos _)
  have hzero : F.infBits % 2 ^ F.fracBits = 0 := Nat.mul_mod_left _ _
  simp [FloatFormat.unpack, hneg, hexp, hfrac, hmax, hzero]

/-- Every finite pattern, whatever bits stand above its sign, has a magnitude of the scale below infinity. -/
theorem exists_magAt_of_unpack_finite {p : Nat} {neg : Bool} {mag : Nat} (h : F.unpack p = .finite neg mag) :
    ∃ m < F.infBits, mag = F.magAt m := by
  have hfrac : p % 2 ^ F.fracBits < 2 ^ F.fracBits := Nat.mod_lt _ (Nat.two_pow_pos _)
  have hexp : p / 2 ^ F.fracBits % 2 ^ F.expBits < 2 ^ F.expBits := Nat.mod_lt _ (Nat.two_pow_pos _)
  simp only [FloatFormat.unpack] at h
  generalize p / 2 ^ F.fracBits % 2 ^ F.expBits = E at *
  generalize p % 2 ^ F.fracBits = frac at *
  have hE : (E * 2 ^ F.fracBits + frac) / 2 ^ F.fracBits = E := by
    rw [Nat.add_comm, Nat.add_mul_div_right _ _ (Nat.two_pow_pos _), Nat.div_eq_of_lt hfrac, Nat.zero_add]
  have hmod : (E * 2 ^ F.fracBits + frac) % 2 ^ F.fracBits = frac := by
    rw [Nat.mul_add_mod', Nat.mod_eq_of_lt hfrac]
  refine ⟨E * 2 ^ F.fracBits + frac, ?_, ?_⟩
  · rw [FloatFormat.infBits, ← Nat.div_lt_iff_lt_mul (Nat.two_pow_pos _), hE]
    split at h
    · split at h <;> cases h
    · next hmax => unfold FloatFormat.maxExpField at *; omega
  · rw [FloatFormat.magAt, hE, hmod]
    split at h
    · split at h <;> cases h
    · split at h <;> cases h <;> simp_all

theorem magOf_eq_magAt {m : Nat} (hm : m < F.infBits) : F.magOf m = F.magAt m := by
  unfold FloatFormat.magOf
  rw [← withSign_false F m, unpack_withSign_finite F false hm, withSign_false]

end Patterns

/-! ## The laws of rounding, for every format -/

section Rounding
variable (F : FloatFormat)

/-- A point of the scale that lies on the number's side of every midpoint is no farther from it than any other, and
as far only if it is even. -/
theorem nearestOnScale_distance {num den p : Nat} (hden : 0 < den) (h : F.NearestOnScale num den p) (m : Nat) :
    ((F.magAt p * den : Int) - num).natAbs ≤ ((F.magAt m * den : Int) - num).natAbs ∧
      (m ≠ p → ((F.magAt p * den : Int) - num).natAbs = ((F.magAt m * den : Int) - num).natAbs → p % 2 = 0) := by
  have hsum := Nat.add_mul (F.magAt m) (F.magAt p) den
  rcases Nat.lt_trichotomy m p with hlt | rfl | hgt
  · have hmag := magAt_mul_lt F hden hlt
    obtain ⟨hmid, htie⟩ := h.below m hlt
    omega
  · omega
  · have hmag := magAt_mul_lt F hden hgt
    obtain ⟨hmid, htie⟩ := h.above m hgt
    rw [Nat.add_comm] at hmid htie
    omega

theorem roundMag_of_finite {num den : Nat} (h : F.roundMag num den < F.infBits) :
    F.roundMag num den = F.roundScale num den := by
  rw [roundMag_eq_min] at *; omega

theorem roundMag_nearest (hf : 0 < F.fracBits) {num den : Nat} (hden : 0 < den)
    (h : F.roundMag num den < F.infBits) : F.NearestOnScale num den (F.roundMag num den) :=
  roundMag_of_finite F h ▸ roundScale_nearest F hf num den hden

theorem infBits_pos (he : 0 < F.expBits) : 0 < F.infBits :=
  Nat.mul_pos (Nat.sub_pos_of_lt (Nat.one_lt_two_pow he.ne')) (Nat.two_pow_pos _)

theorem infBits_even (hf : 0 < F.fracBits) : F.infBits % 2 = 0 :=
  Nat.mod_eq_zero_of_dvd ((dvd_pow_self 2 hf.ne').mul_left _)

/-- The overflow threshold of the statements is the midpoint between the largest finite pattern and the next point of
the scale. -/
theorem overflow_threshold (he : 0 < F.expBits) :
    2 * F.magOf (F.infBits - 1) + 2 ^ (F.maxExpField - 2) = F.magAt (F.infBits - 1) + F.magAt F.infBits := by
  have hpos := infBits_pos F he
  have hexp : (F.infBits - 1) / 2 ^ F.fracBits = F.maxExpField - 1 := by
    rw [FloatFormat.infBits, Nat.mul_comm, Nat.mul_sub_div _ _ _ (Nat.mul_comm _ _ ▸ hpos)]
    simp
  have hsucc := magAt_succ F (F.infBits - 1)
  rw [hexp, Nat.sub_add_cancel hpos] at hsucc
  rw [magOf_eq_magAt F (Nat.sub_lt hpos Nat.one_pos), hsucc, Nat.sub_sub]
  ring

theorem roundMag_eq_infBits_iff (he : 0 < F.expBits) (hf : 0 < F.fracBits) {num den : Nat} (hden : 0 < den) :
    F.roundMag num den = F.infBits ↔
      (2 * F.magOf (F.infBits - 1) + 2 ^ (F.maxExpField - 2)) * den ≤ 2 * num := by
  have hpos := infBits_pos F he
  have heven := infBits_even F hf
  have hscale := roundScale_nearest F hf num den hden
  rw [overflow_threshold F he, roundMag_eq_min, Nat.add_mul]
  rcases Nat.lt_or_ge (F.roundScale num den) F.infBits with hlt | hge
  · obtain ⟨hmid, htie⟩ := hscale.above F.infBits hlt
    have hmag := magAt_mul_le F den (show F.roundScale num den ≤ F.infBits - 1 by omega)
    have hlast : F.roundScale num den = F.infBits - 1 ∨
        F.magAt (F.roundScale num den) * den < F.magAt (F.infBits - 1) * den :=
      (show F.roundScale num den ≤ F.infBits - 1 by omega).eq_or_lt.imp_right (magAt_mul_lt F hden)
    rw [Nat.add_mul] at hmid htie
    omega
  · obtain ⟨hmid, -⟩ := hscale.below (F.infBits - 1) (by omega)
    have hmag := magAt_mul_le F den hge
    rw [Nat.add_mul] at hmid
    omega

theorem roundsToNearestEven (he : 0 < F.expBits) (hf : 0 < F.fracBits) : F.RoundsToNearestEven where
  nearest num den m hden hr hm := by
    unfold FloatFormat.distance
    rw [magOf_eq_magAt F hr, magOf_eq_magAt F hm]
    exact (nearestOnScale_distance F hden (roundMag_nearest F hf hden hr) m).1
  tiesEven num den m hden hr hm hne htie := by
    unfold FloatFormat.distance at htie
    rw [magOf_eq_magAt F hr, magOf_eq_magAt F hm] at htie
    exact (nearestOnScale_distance F hden (roundMag_nearest F hf hden hr) m).2 hne htie
  overflow num den hden := roundMag_eq_infBits_iff F he hf hden

end Rounding

/-! ## Rounding under a sign -/

theorem signedMag_natAbs_of_neg_iff {neg : Bool} {num : Int} (h : neg = true ↔ num < 0) :
    signedMag neg num.natAbs = num := by
  cases neg
  case false => exact Int.natAbs_of_nonneg (by simpa using h)
  case true =>
    have hnum : num < 0 := h.mp rfl
    simp only [signedMag, if_true]
    omega

theorem signedMag_mul (n m : Bool) (x y : Nat) : signedMag n x * signedMag m y = signedMag (n ^^ m) (x * y) := by
  cases n <;> cases m <;> simp [signedMag]

/-- Two numbers of one sign are as far apart as their magnitudes. -/
theorem signedMag_distance_same (neg : Bool) (z den a : Nat) :
    (signedMag neg z * den - signedMag neg a).natAbs = ((z * den : Int) - a).natAbs := by
  cases neg <;> simp only [signedMag, if_true, Bool.false_eq_true, if_false]
  rw [Int.neg_mul]; omega

/-- Two numbers of opposite signs are as far apart as the sum of their magnitudes. -/
theorem signedMag_distance_not (neg : Bool) (z den a : Nat) :
    (signedMag (!neg) z * den - signedMag neg a).natAbs = z * den + a := by
  cases neg <;> simp only [signedMag, Bool.not_true, Bool.not_false, if_true, Bool.false_eq_true, if_false]
  · rw [Int.neg_mul, ← Nat.cast_mul]; omega
  · rw [← Nat.cast_mul]; omega

theorem distance_le_signedMag_distance (n neg : Bool) (z den a : Nat) :
    ((z * den : Int) - a).natAbs ≤ (signedMag n z * den - signedMag neg a).natAbs := by
  obtain rfl | rfl := Bool.eq_or_eq_not n neg
  · rw [signedMag_distance_same]
  · rw [signedMag_distance_not, ← Nat.cast_mul]; omega

section Signed
variable (F : FloatFormat)

theorem withSign_mod_two (hf : 0 < F.fracBits) (neg : Bool) (p : Nat) : F.withSign neg p % 2 = p % 2 := by
  have heven : 2 ∣ F.signBit := dvd_pow_self 2 (by omega)
  cases neg
  · rfl
  · rw [withSign_true]; omega

theorem unpack_withSign_roundMag (neg : Bool) (num den : Nat) :
    (F.roundMag num den < F.infBits ∧
      F.unpack (F.withSign neg (F.roundMag num den)) = .finite neg (F.magAt (F.roundMag num den))) ∨
    (F.roundMag num den = F.infBits ∧ F.unpack (F.withSign neg (F.roundMag num den)) = .inf neg) := by
  rcases (roundMag_le_infBits F num den).lt_or_eq with hlt | heq
  · exact .inl ⟨hlt, unpack_withSign_finite F neg hlt⟩
  · exact .inr ⟨heq, heq ▸ unpack_withSign_inf F neg⟩

/-- Among signed finite patterns none is nearer than the rounded magnitude under the number's sign, and another value
as near leaves it even: one of the same sign by rounding of magnitudes, one of the other sign because then both
distances are those of a zero. -/
theorem roundMag_signed_nearest (hf : 0 < F.fracBits) {a den : Nat} (hden : 0 < den)
    (hr : F.roundMag a den < F.infBits) (neg n : Bool) (m : Nat) :
    (signedMag neg (F.magAt (F.roundMag a den)) * den - signedMag neg a).natAbs ≤
        (signedMag n (F.magAt m) * den - signedMag neg a).natAbs ∧
      (signedMag neg (F.magAt (F.roundMag a den)) ≠ signedMag n (F.magAt m) →
        (signedMag neg (F.magAt (F.roundMag a den)) * den - signedMag neg a).natAbs =
          (signedMag n (F.magAt m) * den - signedMag neg a).natAbs → F.roundMag a den % 2 = 0) := by
  obtain ⟨hnear, htie⟩ := nearestOnScale_distance F hden (roundMag_nearest F hf hden hr) m
  have hle := distance_le_signedMag_distance n neg (F.magAt m) den a
  rw [signedMag_distance_same]
  refine ⟨hnear.trans hle, fun hne heq => ?_⟩
  by_cases hm : m = F.roundMag a den
  · subst hm
    obtain rfl | rfl := Bool.eq_or_eq_not n neg
    · exact absurd rfl hne
    rw [signedMag_distance_not, ← Nat.cast_mul] at heq
    obtain ha | hz : a = 0 ∨ F.magAt (F.roundMag a den) * den = 0 := by omega
    · simp [ha]
    · have hz := (Nat.mul_eq_zero.mp hz).resolve_right hden.ne'
      simp [hz] at hne
  · exact htie hm (by omega)

/-- A rounded magnitude under a sign is the signed number correctly rounded. -/
theorem correctlyRounded_withSign (he : 0 < F.expBits) (hf : 0 < F.fracBits) (neg : Bool) (a : Nat) {den : Nat}
    (hden : 0 < den) : F.CorrectlyRounded (signedMag neg a) den (F.withSign neg (F.roundMag a den)) := by
  have hover := roundMag_eq_infBits_iff F he hf (num := a) hden
  rcases unpack_withSign_roundMag F neg a den with ⟨hr, hunpack⟩ | ⟨hr, hunpack⟩
  case inl =>
    constructor <;> rw [hunpack]
    case number => simp
    case nearest =>
      rintro _ _ ⟨⟩ p n z' hp
      obtain ⟨m, -, rfl⟩ := exists_magAt_of_unpack_finite F hp
      exact (roundMag_signed_nearest F hf hden hr neg n m).1
    case tiesEven =>
      rintro _ _ ⟨⟩ p n z' hp
      obtain ⟨m, -, rfl⟩ := exists_magAt_of_unpack_finite F hp
      rw [withSign_mod_two F hf]
      exact (roundMag_signed_nearest F hf hden hr neg n m).2
    case overflow => simpa using hover.not.mp hr.ne
    case sign => simp
  case inr =>
    have ha : a ≠ 0 := by
      rintro rfl
      exact (infBits_pos F he).ne (by simpa using hr)
    constructor <;> rw [hunpack]
    case number => simp
    case nearest => simp
    case tiesEven => simp
    case overflow => simpa using hover.mp hr
    case sign =>
      rintro _ ⟨⟩
      cases neg <;> simp [signedMag]
      omega

end Signed

/-! ## The operations on finite operands -/

section Operations
variable (F : FloatFormat) (he : 0 < F.expBits) (hf : 0 < F.fracBits) (n m : Bool) (x y : Nat)
include he hf

theorem add_correctlyRounded : ∃ r, F.add (.finite n x) (.finite m y) = some r ∧
    F.CorrectlyRounded (signedMag n x + signedMag m y) 1 r := by
  rw [add_finite]
  generalize signedMag n x + signedMag m y = sum
  split
  · next hzero =>
    have hround := correctlyRounded_withSign F he hf (n && m) 0 Nat.one_pos
    rw [roundMag_zero, signedMag_zero] at hround
    exact ⟨_, rfl, hzero ▸ hround⟩
  · have hround := correctlyRounded_withSign F he hf (decide (sum < 0)) sum.natAbs Nat.one_pos
    rw [signedMag_natAbs_of_neg_iff decide_eq_true_iff] at hround
    exact ⟨_, rfl, hround⟩

theorem sub_correctlyRounded : ∃ r, F.sub (.finite n x) (.finite m y) = some r ∧
    F.CorrectlyRounded (signedMag n x - signedMag m y) 1 r := by
  rw [sub_finite, Int.sub_eq_add_neg, ← signedMag_not]
  exact add_correctlyRounded F he hf n (!m) x y

theorem mul_correctlyRounded : ∃ r, F.mul (.finite n x) (.finite m y) = some r ∧
    F.CorrectlyRounded (signedMag n x * signedMag m y) (2 ^ F.unitExp) r :=
  ⟨_, mul_finite F n m x y, signedMag_mul n m x y ▸
    correctlyRounded_withSign F he hf (n ^^ m) (x * y) (Nat.two_pow_pos F.unitExp)⟩

theorem div_correctlyRounded (hy : y ≠ 0) : ∃ r, F.div (.finite n x) (.finite m y) = some r ∧
    F.CorrectlyRounded ((signedMag m y).sign * signedMag n x * 2 ^ F.unitExp) y r := by
  have hnum : (signedMag m y).sign * signedMag n x * 2 ^ F.unitExp = signedMag (n ^^ m) (x * 2 ^ F.unitExp) := by
    have hsign : (y : Int).sign = 1 := Int.sign_eq_one_of_pos (by omega)
    cases n <;> cases m <;> simp [signedMag, hsign]
  exact ⟨_, div_finite F n m x y hy, hnum ▸
    correctlyRounded_withSign F he hf (n ^^ m) (x * 2 ^ F.unitExp) (Nat.pos_of_ne_zero hy)⟩

end Operations

/-! ## The statements -/

/-- Settles O31: the laws of rounding for every format with an exponent and a fraction, at the two formats. -/
theorem roundingIsNearestEven : Obligations.RoundingIsNearestEven :=
  ⟨roundsToNearestEven binary32 (by decide) (by decide), roundsToNearestEven binary64 (by decide) (by decide)⟩

/-- Settles O32: each operation answers the rounded magnitude of the exact result under its sign. -/
theorem finiteResultsAreCorrectlyRounded : Obligations.FiniteResultsAreCorrectlyRounded := by
  refine ⟨fun F u hF n x m y _ _ => ?_, by decide +kernel⟩
  obtain ⟨he, hf, rfl⟩ : 0 < F.expBits ∧ 0 < F.fracBits ∧ F.unitExp = u := by
    simp only [List.mem_cons, Prod.mk.injEq, List.not_mem_nil, or_false] at hF
    obtain ⟨rfl, rfl⟩ | ⟨rfl, rfl⟩ := hF <;> decide
  exact ⟨add_correctlyRounded F he hf n m x y, sub_correctlyRounded F he hf n m x y,
    mul_correctlyRounded F he hf n m x y, div_correctlyRounded F he hf n m x y⟩

end Sys2Proof.Machine
end

section
/-! PROOFS. What an instruction that gives a next state has done, said once for all 58: a short list of data writes, or
one of the few effects on the flag, the output stream or `STATUS`. From it: who writes the stream, the flag and the
reserved tag bits (10_state.md R18, R24, R31). -/

namespace Sys2Proof.Machine

/-! ## The tags an instruction copies -/

/-- A tag that the state already holds, or `RAW`: what the instructions that copy a tag copy. -/
inductive State.HoldsTag (s : State) : Tag → Prop
  | raw : s.HoldsTag 0
  | register (r : Reg) : s.HoldsTag (s.tag r)
  | slot {slot : Slot} (h : slot ∈ s.stack) : s.HoldsTag slot.tag

/-! ## What an instruction that completes has done -/

/-- `t` comes from `s` by writes to data alone: registers, the value stack, the slab and the allocator. -/
inductive DataWrites (s : State) : State → Prop
  | none : DataWrites s s
  | setVal {t} (h : DataWrites s t) (c : Reg) (v : Cell64) : DataWrites s (t.setVal c v)
  | setReg {t} (h : DataWrites s t) (c : Reg) (v : Cell64) (kind : TagKind) : DataWrites s (t.setReg c v kind)
  | copyReg {t} (h : DataWrites s t) (c : Reg) (v : Cell64) {g : Tag} (hg : s.HoldsTag g) :
    DataWrites s (t.copyReg c v g)
  | push {t u} (h : DataWrites s t) {v : Cell64} {g : Tag} (hg : s.HoldsTag g) (hu : t.push v g = .ok u) :
    DataWrites s u
  | pop {t u} (h : DataWrites s t) {slot : Slot} (hu : t.pop = .ok (slot, u)) : DataWrites s u
  | truncate {t} (h : DataWrites s t) (n : Nat) : DataWrites s (t.truncate n)
  | writeSlot {t} (h : DataWrites s t) {k : Nat} (hk : k < t.stack.length) (v : Cell64) {g : Tag}
    (hg : s.HoldsTag g) : DataWrites s (t.writeSlot k v g)
  | memWrite {t u} (h : DataWrites s t) {a n : Nat} {v : Cell64} (hu : t.memWrite a n v = .ok u) : DataWrites s u
  | alloc {t u} (h : DataWrites s t) {k a : Nat} (hu : t.alloc k = .ok (a, u)) : DataWrites s u

/-- The state that HALT leaves (46_halt_output.md R163). -/
def State.afterHalt (s : State) : State :=
  ((((((s.emit (s.outKind s.cfg.returnReg) (s.reg s.cfg.returnReg)).clearRegs.truncate 0).freeAll).setFlag
    false).advance).halted)

theorem exec_halt (s : State) : exec .halt s = .next s.afterHalt := rfl

/-- JUMP_IF and JUMP_ABS_IF, which alone read the flag (10_state.md R31). -/
def IsConditionalJump (i : Instr) : Prop := (∃ imm24, i = .jumpIf imm24) ∨ ∃ a, i = .jumpAbsIf a

/-- `i` completes from `s` in `t`, by kind of effect: data writes and the next instruction or a checked target, or one
of the few instructions that also touch the flag, the output stream or `STATUS`. -/
inductive Completes (s : State) : Instr → State → Prop
  | next {i u} (h : DataWrites s u) : Completes s i u.advance
  | jump {i u} (h : DataWrites s u) {n : Nat} (hn : n < s.codeSize) : Completes s i (u.jumpTo n)
  | bool {i} (hi : 0x2A ≤ i.opcode.toNat ∧ i.opcode.toNat ≤ 0x38) (c : Reg) (b : Bool) :
    Completes s i (s.writeBool c b).advance
  | takenJump {i} (hi : IsConditionalJump i) {n : Nat} (hn : n < s.codeSize) :
    Completes s i ((s.setFlag false).jumpTo n)
  | out (a : Reg) : Completes s (.out a) (s.emit (s.outKind a) (s.reg a)).advance
  | halt : Completes s .halt s.afterHalt

theorem completes_of_next {i : Instr} {s t u : State} (h : (.next u : StepResult) = .next t) (hu : Completes s i u) :
    Completes s i t ∨ ∃ c, t = s.takeRuntimeError c :=
  .inl (Host.Outcome.next.inj h ▸ hu)

theorem completes_of_settle {i : Instr} {s t : State} {r : Except Stop State} (h : s.settle r = .next t)
    (hr : r = .ok t → Completes s i t) : Completes s i t ∨ ∃ c, t = s.takeRuntimeError c :=
  (State.settle_eq_next h).imp hr fun ⟨c, _, ht⟩ => ⟨c, ht⟩

/-- A conditional jump, with `t` its target (44_control.md R144). -/
theorem completes_of_conditional {i : Instr} {s t : State} {target : Int}
    (hi : IsConditionalJump i)
    (h : (if s.flag then do return (s.setFlag false).jumpTo (← s.checkTarget target) else .ok s.advance) = .ok t) :
    Completes s i t := by
  split at h
  · obtain ⟨n, hn, h⟩ := bind_eq_ok h
    exact Except.ok.inj h ▸ .takenJump hi (State.checkTarget_ok hn).1
  · exact Except.ok.inj h ▸ .next .none

/-- An instruction that answers a next state has completed or has taken a runtime error from the state before. -/
theorem exec_next {i : Instr} {s t : State} (h : exec i s = .next t) :
    Completes s i t ∨ ∃ c, t = s.takeRuntimeError c := by
  cases i with
  | halt => exact completes_of_next ((exec_halt s).symm.trans h) .halt
  | out a => exact completes_of_next h (.out a)
  | move a b => exact completes_of_next h (.next (.copyReg .none b _ (.register a)))
  | constLow | constLowNegative | constMidLow | constMidHigh | constHigh | intAdd | intSubtract | intMultiply | uintAdd
  | uintSubtract | uintMultiply | floatAdd | floatSubtract | floatMultiply | floatDivide | doubleAdd | doubleSubtract
  | doubleMultiply | doubleDivide => exact completes_of_next h (.next (.setReg .none ..))
  | bitAnd | bitOr => exact completes_of_next h (.next (.setVal .none ..))
  | equal | notEqual | intLess | intLessEqual | uintLess | uintLessEqual | floatEqual | floatNotEqual | floatLess
  | floatLessEqual | doubleEqual | doubleNotEqual | doubleLess | doubleLessEqual | test =>
    exact completes_of_next h (.bool (by simp [Instr.opcode]) ..)
  | intDivide | uintDivide =>
    refine completes_of_settle h fun h => ?_
    split at h
    · exact nomatch h
    · exact Except.ok.inj h ▸ .next (.setReg .none ..)
  | push a =>
    refine completes_of_settle h fun h => ?_
    obtain ⟨s1, hpush, h⟩ := bind_eq_ok h
    exact Except.ok.inj h ▸ .next (.push .none (.register a) hpush)
  | pop a =>
    refine completes_of_settle h fun h => ?_
    obtain ⟨⟨slot, s1⟩, hpop, h⟩ := bind_eq_ok h
    have hslot := List.mem_of_getLast? (State.pop_ok hpop).1
    exact Except.ok.inj h ▸ .next (.copyReg (.pop .none hpop) a _ (.slot hslot))
  | moveFromStackFrame a b =>
    refine completes_of_settle h fun h => ?_
    obtain ⟨⟨k, slot⟩, hslot, h⟩ := bind_eq_ok h
    have hslot := List.mem_of_getElem? (State.frameSlot_ok hslot).2
    exact Except.ok.inj h ▸ .next (.copyReg .none b _ (.slot hslot))
  | moveToStackFrame a b =>
    refine completes_of_settle h fun h => ?_
    obtain ⟨⟨k, slot⟩, hslot, h⟩ := bind_eq_ok h
    have hk := (List.getElem?_eq_some_iff.mp (State.frameSlot_ok hslot).2).1
    exact Except.ok.inj h ▸ .next (.writeSlot .none hk _ (.register b))
  | pushIp imm24 =>
    refine completes_of_settle h fun h => ?_
    obtain ⟨n, _, h⟩ := bind_eq_ok h
    obtain ⟨s1, hpush, h⟩ := bind_eq_ok h
    exact Except.ok.inj h ▸ .next (.push .none .raw hpush)
  | newStackFrame =>
    refine completes_of_settle h fun h => ?_
    obtain ⟨s1, hpush, h⟩ := bind_eq_ok h
    exact Except.ok.inj h ▸ .next (.setReg (.push .none (.register _) hpush) ..)
  | ret =>
    refine completes_of_settle h fun h => ?_
    obtain ⟨⟨base, ret, saved⟩, hlink, h⟩ := bind_eq_ok h
    obtain ⟨n, hn, h⟩ := bind_eq_ok h
    obtain ⟨_, _, _, _, hsaved⟩ := State.linkage_ok hlink
    have hsaved := List.mem_of_getElem? hsaved
    exact Except.ok.inj h ▸ .jump (.truncate (.copyReg .none _ _ (.slot hsaved)) _) (State.checkTarget_ok hn).1
  | jump | jumpAbs =>
    refine completes_of_settle h fun h => ?_
    obtain ⟨n, hn, h⟩ := bind_eq_ok h
    exact Except.ok.inj h ▸ .jump .none (State.checkTarget_ok hn).1
  | jumpIf imm24 => exact completes_of_settle h (completes_of_conditional (.inl ⟨_, rfl⟩))
  | jumpAbsIf a => exact completes_of_settle h (completes_of_conditional (.inr ⟨_, rfl⟩))
  | alloc a b =>
    refine completes_of_settle h fun h => ?_
    obtain ⟨type, _, h⟩ := bind_eq_ok h
    obtain ⟨⟨r, s1⟩, halloc, h⟩ := bind_eq_ok h
    exact Except.ok.inj h ▸ .next (.setReg (.alloc .none halloc) ..)
  | allocArray a b c =>
    refine completes_of_settle h fun h => ?_
    obtain ⟨_, _, h⟩ := bind_eq_ok h
    obtain ⟨⟨r, s1⟩, halloc, h⟩ := bind_eq_ok h
    obtain ⟨s2, hcount, h⟩ := bind_eq_ok h
    obtain ⟨s3, hspan, h⟩ := bind_eq_ok h
    exact Except.ok.inj h ▸ .next (.setReg (.memWrite (.memWrite (.alloc .none halloc) hcount) hspan) ..)
  | structLoad | arrayLoad =>
    refine completes_of_settle h fun h => ?_
    obtain ⟨⟨addr, _⟩, _, h⟩ := bind_eq_ok h
    obtain ⟨v, _, h⟩ := bind_eq_ok h
    exact Except.ok.inj h ▸ .next (.setReg .none ..)
  | structStore | arrayStore =>
    refine completes_of_settle h fun h => ?_
    obtain ⟨⟨addr, _⟩, _, h⟩ := bind_eq_ok h
    obtain ⟨s1, hwrite, h⟩ := bind_eq_ok h
    exact Except.ok.inj h ▸ .next (.memWrite .none hwrite)

/-! ## What data writes leave alone -/

/-- `t` has the control state of `s`, and the reserved tag bits of its registers. -/
structure SameControl (s t : State) : Prop where
  cfg       : t.cfg = s.cfg
  code      : t.code = s.code
  ip        : t.ip = s.ip
  flag      : t.flag = s.flag
  status    : t.status = s.status
  out       : t.out = s.out
  reserved  : ∀ r, reservedBits (t.tag r) = reservedBits (s.tag r)

@[simp] theorem reservedBits_retag (old : Tag) (low : BitVec 5) : reservedBits (retag old low) = reservedBits old :=
  retag_reserved old low

/-- The reserved bits survive a rewrite of bits 4:0 of one register's tag. -/
theorem reservedBits_rewrite (old : Reg → Tag) (c r : Reg) (low : BitVec 5) :
    reservedBits (if r = c then retag (old c) low else old r) = reservedBits (old r) := by
  split
  · next h => rw [h, reservedBits_retag]
  · rfl

theorem DataWrites.sameControl {s t : State} (h : DataWrites s t) : SameControl s t := by
  induction h with
  | none => exact ⟨rfl, rfl, rfl, rfl, rfl, rfl, fun _ => rfl⟩
  | setVal _ c v ih => exact { ih with }
  | setReg _ c v kind ih =>
    exact { ih with
      reserved := fun r => by rw [State.setReg_tag, reservedBits_rewrite, ih.reserved] }
  | copyReg _ c v hg ih =>
    exact { ih with
      reserved := fun r => by rw [State.copyReg_tag, reservedBits_rewrite, ih.reserved] }
  | push _ hg hu ih =>
    obtain ⟨_, rfl⟩ := State.push_ok hu
    exact { ih with }
  | pop _ hu ih =>
    obtain ⟨_, rfl⟩ := State.pop_ok hu
    exact { ih with }
  | truncate _ n ih => exact { ih with }
  | writeSlot _ hk v hg ih => exact { ih with }
  | memWrite _ hu ih =>
    obtain ⟨_, rfl⟩ := State.memWrite_ok hu
    exact { ih with }
  | alloc _ hu ih =>
    obtain ⟨_, _, _, rfl⟩ := State.alloc_ok hu
    exact { ih with }

/-! ## The output stream, the reserved tag bits and the flag -/

/-- Settles O18: of the effects of an instruction only those of OUT and HALT write the stream. -/
theorem outputAppendOnly : Obligations.OutputAppendOnly := by
  intro i s t h
  rcases exec_next h with hc | ⟨c, rfl⟩
  · cases hc with
    | next hw => exact .inl hw.sameControl.out
    | jump hw => exact .inl hw.sameControl.out
    | bool => exact .inl rfl
    | takenJump => exact .inl rfl
    | out a => exact .inr ⟨⟨_, rfl⟩, .inr ⟨a, rfl⟩⟩
    | halt => exact .inr ⟨⟨_, rfl⟩, .inl rfl⟩
  · exact .inl rfl

theorem afterHalt_tag (s : State) (r : Reg) : s.afterHalt.tag r = 0 := by
  simp [State.afterHalt]

/-- Settles O19: a write to a tag rewrites bits 4:0 alone; HALT clears every tag. -/
theorem reservedTagBitsPreserved : Obligations.ReservedTagBitsPreserved := by
  intro i s t h r
  by_cases hi : i = .halt
  · subst hi
    obtain rfl := Host.Outcome.next.inj ((exec_halt s).symm.trans h)
    rw [if_pos rfl, afterHalt_tag]
    rfl
  rw [if_neg hi]
  rcases exec_next h with hc | ⟨c, rfl⟩
  · cases hc with
    | next hw => exact hw.sameControl.reserved r
    | jump hw => exact hw.sameControl.reserved r
    | bool _ c b => rw [State.advance_tag, State.writeBool_tag, reservedBits_rewrite]
    | takenJump => rfl
    | out a => rfl
    | halt => exact absurd rfl hi
  · rfl

/-- Settles O20: data writes keep the flag; the other effects name the instructions that have them. -/
theorem flagWriters : Obligations.FlagWriters := by
  intro i s t h hflag
  rcases exec_next h with hc | ⟨c, rfl⟩
  · cases hc with
    | next hw => exact absurd hw.sameControl.flag hflag
    | jump hw => exact absurd hw.sameControl.flag hflag
    | bool hi => exact .inl hi
    | takenJump hi => exact .inr ⟨rfl, .inr hi⟩
    | out a => exact absurd rfl hflag
    | halt => exact .inr ⟨rfl, .inl rfl⟩
  · exact absurd rfl hflag

end Sys2Proof.Machine
end

section
/-! PROOFS. The line table, reset and start (10_state.md R21, R42; 20_memory.md R58). -/

namespace Sys2Proof.Machine

/-! ## The line table -/

theorem sum_counts_take_succ_cons (run : LineRun) (rest : List LineRun) (j : Nat) :
    (((run :: rest).take (j + 1)).map (·.count)).sum = run.count + ((rest.take j).map (·.count)).sum := by
  simp

/-- Settles O10, by induction on the table: `getLine` drops a run that the offset passes and walks on in the rest. -/
theorem getLineWalksRuns : Obligations.GetLineWalksRuns := by
  intro runs
  induction runs with
  | nil => exact fun offset => ⟨nofun, fun _ => rfl⟩
  | cons run rest ih =>
    intro offset
    obtain ⟨ihLeast, ihNone⟩ := ih (offset - run.count)
    simp only [sum_counts_take_succ_cons, List.map_cons, List.sum_cons, getLine]
    refine ⟨fun j r hr hgt hle => ?_, fun hall => ?_⟩
    · cases j with
      | zero =>
        obtain rfl : run = r := by simpa using hr
        exact if_pos (by simpa using hgt)
      | succ j =>
        have hpass := hle 0 (by omega)
        simp only [List.take_zero, List.map_nil, List.sum_nil] at hpass
        rw [if_neg (by omega)]
        refine ihLeast j r hr (by omega) fun i hi => ?_
        have := hle (i + 1) (by omega)
        omega
    · rw [if_neg (by omega)]
      exact ihNone (by omega)

/-! ## Reset and start -/

theorem startValues_resetWith (cfg : Config) : StartValues (State.resetWith cfg) where
  registers r := by simp [State.resetWith, State.reg, State.tag]
  flag := rfl
  ip := rfl
  stack := ⟨rfl, rfl⟩
  tree := rfl
  pool := rfl
  cause := rfl
  faultIp := rfl
  faultLine := rfl

theorem startValues_start (s : State) : StartValues s.start where
  registers r := ⟨s.start_reg r, s.start_tag r⟩
  flag := rfl
  ip := rfl
  stack := ⟨rfl, s.start_pointerSlots⟩
  tree := rfl
  pool := rfl
  cause := rfl
  faultIp := rfl
  faultLine := rfl

theorem hostRequest_start {s : State} (h : s.status ≠ .running) : hostRequest .start s = .next s.start := if_neg h

/-- Settles O11: both reset states are `resetWith` of their parameters, and a start out of a run is `State.start`. -/
theorem resetState : Obligations.ResetState := by
  refine ⟨?_, fun _ => ⟨rfl, rfl⟩, fun s hs =>
    ⟨s.start, hostRequest_start hs, startValues_start s, rfl, rfl, rfl, rfl, rfl, rfl, rfl, rfl⟩⟩
  have reset (cfg : Config) : StartValues (State.resetWith cfg) ∧ (State.resetWith cfg).status = .idle ∧
      ∀ a, (State.resetWith cfg).slab.byte a = Config.slabInit a := ⟨startValues_resetWith cfg, rfl, fun _ => rfl⟩
  rintro s (rfl | ⟨cfg, rfl⟩)
  exacts [reset _, reset cfg]

theorem legalTag_zero : LegalTag 0 := (legalTag_iff 0).mpr ⟨.raw, rfl⟩

theorem config_default_legal : Config.default.Legal := by constructor <;> decide

/-- One free root and the rest of the records in the pool (20_memory.md R58, R59). -/
theorem allocatorInv_freeRoot {cfg : Config} (h : cfg.Legal) :
    AllocatorInv cfg (.leaf cfg.slabExp cfg.slabBase false) (cfg.nodeCap - 1) where
  shaped := ⟨rfl, rfl, h.minExp_le⟩
  records := by
    have : 2 ≤ 2 ^ (cfg.slabExp - cfg.minExp + 1) := Nat.pow_le_pow_right (n := 2) (by omega) (Nat.le_add_left 1 _)
    simp only [Node.count, Config.nodeCap]
    omega

theorem resetWith_inv {cfg : Config} (h : cfg.Legal) : (State.resetWith cfg).Inv where
  cfg_legal := h
  code_fits := Nat.zero_le _
  ip_fits := Nat.zero_le _
  stack_fits := Nat.zero_le _
  reg_tags r := (startValues_resetWith cfg).registers r |>.2 ▸ legalTag_zero
  slot_tags := nofun
  pointers := ⟨.nil, fun _ => ⟨nofun, fun ⟨_, hk, _⟩ => nomatch hk⟩⟩
  slab_wf := reset_slab_wf cfg
  slab_in := nofun
  allocator := allocatorInv_freeRoot h
  report := ⟨nofun, fun _ => ⟨rfl, rfl, rfl, rfl⟩⟩

/-- Settles O13: the reset state of every legal block has the invariant, and the default parameters are legal. -/
theorem resetHasInv : Obligations.ResetHasInv := ⟨resetWith_inv config_default_legal, fun _ h => resetWith_inv h⟩

end Sys2Proof.Machine
end

section
/-! PROOFS. The truth value of a register and TEST (10_state.md R30; 43_compare.md R124, R141). -/

namespace Sys2Proof.Machine

/-! ## Truth of a register -/

/-- A pattern is one of the two zeros exactly when every bit below the sign is 0. -/
theorem isZero_unpack (F : FloatFormat) (he : 0 < F.expBits) (b : Nat) :
    (F.unpack b).isZero = true ↔ b % F.signBit = 0 := by
  have hsplit : b % F.signBit = b % 2 ^ F.fracBits + 2 ^ F.fracBits * (b / 2 ^ F.fracBits % 2 ^ F.expBits) := by
    rw [FloatFormat.signBit, Nat.add_comm, Nat.pow_add, Nat.mod_mul]
  have hmax : F.maxExpField ≠ 0 := (Nat.sub_pos_of_lt (Nat.one_lt_two_pow he.ne')).ne'
  have hquantum : 0 < 2 ^ F.fracBits := Nat.two_pow_pos _
  rw [hsplit]
  simp only [FloatFormat.unpack]
  generalize b / 2 ^ F.fracBits % 2 ^ F.expBits = E
  split
  · next hE => split <;> simp [FloatVal.isZero, hE, hmax]
  · split <;> simp_all [FloatVal.isZero]

theorem isZero_f32 (b : BitVec 32) : (f32 b).isZero = true ↔ b = 0 ∨ b = 0x80000000 := by
  rw [f32, isZero_unpack binary32 (by decide), binary32_signBit]
  bv_omega

theorem isZero_f64 (b : BitVec 64) : (f64 b).isZero = true ↔ b = 0 ∨ b = 0x8000000000000000 := by
  rw [f64, isZero_unpack binary64 (by decide), binary64_signBit]
  bv_omega

/-- The truth value of a register by its tag, on bit patterns (10_state.md R30). -/
theorem isTruthy_iff (s : State) (a : Reg) :
    s.isTruthy a = true ↔
      if (s.tag a).getLsbD 3 then s.reg a ≠ 0 ∧ s.reg a ≠ 0x8000000000000000
      else if (s.tag a).getLsbD 2 then
        (s.reg a).extractLsb' 0 32 ≠ 0 ∧ (s.reg a).extractLsb' 0 32 ≠ 0x80000000
      else s.reg a ≠ 0 := by
  unfold State.isTruthy
  split
  · rw [Bool.not_eq_true', ← Bool.not_eq_true, State.asDouble, isZero_f64, not_or]
  split
  · rw [Bool.not_eq_true', ← Bool.not_eq_true, State.asFloat, State.reg32, isZero_f32, not_or]
  · exact decide_eq_true_iff

/-- What every comparison and TEST does (43_compare.md R124). -/
theorem writesBool_writeBool (s : State) (c : Reg) (b : Bool) : WritesBool s (s.writeBool c b).advance c b where
  value := by simp [boolCell]
  tag := by simp [TaggedAs, reservedBits]
  flag := rfl
  next := rfl
  frame := {
    loaded := ⟨rfl, rfl, rfl, rfl⟩
    registers := fun r hr => by simp_all
    flag := fun h => absurd List.mem_cons_self h
    stack := fun _ => ⟨rfl, rfl⟩
    heap := fun _ _ => rfl
    allocator := fun _ => ⟨rfl, rfl⟩
    out := fun _ => rfl
    report := fun _ => ⟨rfl, rfl, rfl, rfl, rfl⟩ }

/-- Settles O37: TEST writes `isTruthy`, read on the bit patterns of both zeros. -/
theorem testWritesTruth : Obligations.TestWritesTruth := fun a b s =>
  ⟨⟨rfl, rfl⟩, _, s.isTruthy a, rfl, writesBool_writeBool s b (s.isTruthy a), isTruthy_iff s a⟩

end Sys2Proof.Machine
end

section
/-! PROOFS. The machine's invariant is inductive (10_state.md R25, R32 to R39; 20_memory.md R45, R58): one lemma for
each write that an instruction is made of, and the list of writes from above. -/

namespace Sys2Proof.Machine

/-! ## The pointer-slot index stays exact (10_state.md R35 to R39) -/

theorem markSlot_rising (k : Nat) (g : Tag) {p : List Nat} (h : p.Pairwise (· < ·)) :
    (markSlot k g p).Pairwise (· < ·) := by
  unfold markSlot
  split
  · exact insertIndex_rising k p h
  · exact h.filter _

/-- A slot of the grown stack is an old one, or the new one on top. -/
theorem PointerIndexExact.push {stack : List Slot} {p : List Nat} (h : PointerIndexExact stack p) (v : Cell64)
    (g : Tag) :
    PointerIndexExact (stack ++ [{ val := v, tag := slotTag g }])
      (if isPtrTag g then insertIndex stack.length p else p) where
  rising := by
    split
    · exact insertIndex_rising _ _ h.rising
    · exact h.rising
  exact k := by
    have hold : k ∈ p → k < stack.length := fun hk => by
      obtain ⟨slot, hslot, _⟩ := (h.exact k).mp hk
      exact (List.getElem?_eq_some_iff.mp hslot).1
    have hmem : (k ∈ if isPtrTag g then insertIndex stack.length p else p) ↔
        k ∈ p ∨ (k = stack.length ∧ isPtrTag g = true) := by
      split
      · next hg => simp [mem_insertIndex, hg, or_comm]
      · next hg => simp [hg]
    have htop : (slotTag g).getLsbD 0 = isPtrTag g := isPtrTag_slotTag g
    rw [hmem]
    rcases Nat.lt_trichotomy k stack.length with hk | rfl | hk
    · rw [List.getElem?_append_left hk, ← h.exact]
      simp [hk.ne]
    · have hnone : stack.length ∉ p := fun hk => lt_irrefl _ (hold hk)
      rw [List.getElem?_concat_length]
      simp only [hnone, false_or, true_and, Option.some.injEq, exists_eq_left', htop]
    · rw [List.getElem?_eq_none (by simpa using hk)]
      simp [hk.ne', mt hold hk.not_gt]

/-- Truncation keeps the slots below `n`, and the index entries below `n`. -/
theorem PointerIndexExact.take {stack : List Slot} {p : List Nat} (h : PointerIndexExact stack p) (n : Nat) :
    PointerIndexExact (stack.take n) (p.filter (fun k => k < n)) where
  rising := h.rising.filter _
  exact k := by
    rw [List.mem_filter, h.exact, List.getElem?_take, decide_eq_true_iff]
    split
    · next hk => simp [hk]
    · next hk => simp [hk]

/-- A pop is a truncation by one slot: the index has nothing above the top. -/
theorem PointerIndexExact.dropLast {stack : List Slot} {p : List Nat} (h : PointerIndexExact stack p) :
    PointerIndexExact stack.dropLast (removeIndex (stack.length - 1) p) := by
  have hfilter : removeIndex (stack.length - 1) p = p.filter (fun k => k < stack.length - 1) :=
    List.filter_congr fun k hk => by
      obtain ⟨slot, hslot, _⟩ := (h.exact k).mp hk
      have := (List.getElem?_eq_some_iff.mp hslot).1
      rw [Bool.eq_iff_iff, bne_iff_ne, decide_eq_true_iff]
      omega
  rw [hfilter, List.dropLast_eq_take]
  exact h.take _

theorem PointerIndexExact.set {stack : List Slot} {p : List Nat} (h : PointerIndexExact stack p) {k : Nat}
    (hk : k < stack.length) (v : Cell64) (g : Tag) :
    PointerIndexExact (stack.set k { val := v, tag := slotTag g }) (markSlot k g p) where
  rising := markSlot_rising k g h.rising
  exact j := by
    have hnew : (slotTag g).getLsbD 0 = isPtrTag g := isPtrTag_slotTag g
    rw [mem_markSlot]
    split
    · next hj => simp only [hj, List.getElem?_set_self hk, Option.some.injEq, exists_eq_left', hnew]
    · next hj => rw [List.getElem?_set_ne (Ne.symm hj), h.exact]

/-! ## Legal tags -/

theorem legalTag_congr {g g' : Tag} (h : g.extractLsb' 0 5 = g'.extractLsb' 0 5) : LegalTag g ↔ LegalTag g' := by
  rw [LegalTag, LegalTag, h]

theorem legalTag_retag_copy {old g : Tag} (h : LegalTag g) : LegalTag (retag old (g.extractLsb' 0 5)) :=
  (legalTag_congr (retag_low old _)).mpr h

theorem legalTag_slotTag {g : Tag} (h : LegalTag g) : LegalTag (slotTag g) ∧ reservedBits (slotTag g) = 0 :=
  ⟨(legalTag_congr (slotTag_low g)).mpr h, slotTag_reserved g⟩

theorem Cause.code_range (c : Cause) : 1 ≤ c.code.toNat ∧ c.code.toNat ≤ 19 := by cases c <;> decide

namespace State.Inv

variable {s t : State}

theorem legalTag_of_holdsTag (h : s.Inv) {g : Tag} (hg : s.HoldsTag g) : LegalTag g := by
  cases hg with
  | raw => exact legalTag_zero
  | register r => exact h.reg_tags r
  | slot hslot => exact (h.slot_tags _ hslot).1

/-! ## Each write to data keeps the invariant -/

theorem setVal (h : s.Inv) (c : Reg) (v : Cell64) : (s.setVal c v).Inv :=
  { h with report := ⟨h.report.atError, h.report.elsewhere⟩ }

theorem setTagBits (h : s.Inv) (c : Reg) {low : BitVec 5} (hlow : ∀ old, LegalTag (retag old low)) :
    (s.setTagBits c low).Inv :=
  { h with
    reg_tags := fun r => by
      rw [State.setTagBits_tag]
      split
      · exact hlow _
      · exact h.reg_tags r
    report := ⟨h.report.atError, h.report.elsewhere⟩ }

theorem setReg (h : s.Inv) (c : Reg) (v : Cell64) (kind : TagKind) : (s.setReg c v kind).Inv :=
  (h.setVal c v).setTagBits c fun old => legalTag_retag old kind

theorem copyReg (h : s.Inv) (c : Reg) (v : Cell64) {g : Tag} (hg : LegalTag g) : (s.copyReg c v g).Inv :=
  (h.setVal c v).setTagBits c fun _ => legalTag_retag_copy hg

theorem push (h : s.Inv) {v : Cell64} {g : Tag} (hg : LegalTag g) (hp : s.push v g = .ok t) : t.Inv := by
  obtain ⟨hroom, rfl⟩ := State.push_ok hp
  exact { h with
    stack_fits := by simpa using hroom
    slot_tags := fun slot hslot => by
      rcases List.mem_append.mp hslot with hslot | hslot
      · exact h.slot_tags slot hslot
      · exact List.mem_singleton.mp hslot ▸ legalTag_slotTag hg
    pointers := h.pointers.push v g
    report := ⟨h.report.atError, h.report.elsewhere⟩ }

theorem pop (h : s.Inv) {slot : Slot} (hp : s.pop = .ok (slot, t)) : t.Inv := by
  obtain ⟨_, rfl⟩ := State.pop_ok hp
  exact { h with
    stack_fits := (List.length_dropLast ▸ Nat.sub_le ..).trans h.stack_fits
    slot_tags := fun slot hslot => h.slot_tags slot (List.mem_of_mem_dropLast hslot)
    pointers := h.pointers.dropLast
    report := ⟨h.report.atError, h.report.elsewhere⟩ }

theorem truncate (h : s.Inv) (n : Nat) : (s.truncate n).Inv :=
  { h with
    stack_fits := (List.length_take_le' n s.stack).trans h.stack_fits
    slot_tags := fun slot hslot => h.slot_tags slot (List.mem_of_mem_take hslot)
    pointers := h.pointers.take n
    report := ⟨h.report.atError, h.report.elsewhere⟩ }

theorem writeSlot (h : s.Inv) {k : Nat} (hk : k < s.stack.length) (v : Cell64) {g : Tag} (hg : LegalTag g) :
    (s.writeSlot k v g).Inv :=
  { h with
    stack_fits := (List.length_set ..).trans_le h.stack_fits
    slot_tags := fun slot hslot => by
      rcases List.mem_or_eq_of_mem_set hslot with hslot | rfl
      · exact h.slot_tags slot hslot
      · exact legalTag_slotTag hg
    pointers := h.pointers.set hk v g
    report := ⟨h.report.atError, h.report.elsewhere⟩ }

theorem memWrite (h : s.Inv) {a n : Nat} {v : Cell64} (hw : s.memWrite a n v = .ok t) : t.Inv := by
  obtain ⟨⟨hlow, hhigh⟩, rfl⟩ := State.memWrite_ok hw
  exact { h with
    slab_wf := Memory.writeLE_wf n s.slab a v.toNat h.slab_wf
    slab_in := fun c hc => by
      rcases Memory.mem_writeLE_addr n s.slab a v.toNat c hc with ⟨h1, h2⟩ | hc
      · exact ⟨hlow.trans h1, le_trans h2 hhigh⟩
      · exact h.slab_in c hc
    report := ⟨h.report.atError, h.report.elsewhere⟩ }

theorem alloc (h : s.Inv) {k a : Nat} (ha : s.alloc k = .ok (a, t)) : t.Inv := by
  obtain ⟨tree, pool, hfound, rfl⟩ := State.alloc_ok ha
  exact { h with
    allocator := allocBlock_inv h.allocator hfound
    report := ⟨h.report.atError, h.report.elsewhere⟩ }

theorem of_dataWrites (h : s.Inv) (hw : DataWrites s t) : t.Inv := by
  induction hw with
  | none => exact h
  | setVal _ c v ih => exact ih.setVal c v
  | setReg _ c v kind ih => exact ih.setReg c v kind
  | copyReg _ c v hg ih => exact ih.copyReg c v (h.legalTag_of_holdsTag hg)
  | push _ hg hu ih => exact ih.push (h.legalTag_of_holdsTag hg) hu
  | pop _ hu ih => exact ih.pop hu
  | truncate _ n ih => exact ih.truncate n
  | writeSlot _ hk v hg ih => exact ih.writeSlot hk v (h.legalTag_of_holdsTag hg)
  | memWrite _ hu ih => exact ih.memWrite hu
  | alloc _ hu ih => exact ih.alloc hu

/-! ## The flag, the output stream and the instruction pointer -/

theorem setFlag (h : s.Inv) (b : Bool) : (s.setFlag b).Inv :=
  { h with report := ⟨h.report.atError, h.report.elsewhere⟩ }

theorem emit (h : s.Inv) (kind : OutKind) (bits : Cell64) : (s.emit kind bits).Inv :=
  { h with report := ⟨h.report.atError, h.report.elsewhere⟩ }

theorem clearRegs (h : s.Inv) : s.clearRegs.Inv :=
  { h with
    reg_tags := fun r => s.clearRegs_tag r ▸ legalTag_zero
    report := ⟨h.report.atError, h.report.elsewhere⟩ }

theorem freeAll (h : s.Inv) : s.freeAll.Inv :=
  { h with
    allocator := freeAllBlocks_inv h.allocator
    report := ⟨h.report.atError, h.report.elsewhere⟩ }

theorem writeBool (h : s.Inv) (c : Reg) (b : Bool) : (s.writeBool c b).Inv := (h.setReg c (boolCell b) .raw).setFlag b

/-- While the block runs, the report has its start values. -/
theorem report_of_running (h : s.Inv) (hrun : s.status = .running) :
    s.cause = 0 ∧ s.faultIp = 0 ∧ s.faultLine = -1 ∧ s.diag = [] := h.report.elsewhere (by simp [hrun])

/-- A running block may go to any index up to `CODE_CAP`. -/
theorem setIp (h : s.Inv) (hrun : s.status = .running) {ip : Index} (hip : ip.toNat ≤ s.cfg.codeCap) :
    ({ s with ip := ip } : State).Inv :=
  { h with
    ip_fits := hip
    report := ⟨fun herr => absurd (hrun.symm.trans herr) nofun, h.report.elsewhere⟩ }

/-- The instruction after a fetched one: 25 bits hold it (10_state.md R32). -/
theorem advance (h : s.Inv) (hrun : s.status = .running) (hip : s.ip.toNat < s.code.length) : s.advance.Inv := by
  refine h.setIp hrun ?_
  have hcode := h.code_fits
  have hcap := h.cfg_legal.codeCap_le
  bv_omega

theorem jumpTo (h : s.Inv) (hrun : s.status = .running) {n : Nat} (hn : n < s.codeSize) : (s.jumpTo n).Inv :=
  h.setIp hrun ((BitVec.toNat_ofNat n 25).trans_le ((Nat.mod_le _ _).trans (hn.le.trans h.code_fits)))

theorem halted (h : s.Inv) (hrun : s.status = .running) : s.halted.Inv :=
  { h with report := ⟨nofun, fun _ => h.report_of_running hrun⟩ }

/-- The diagnostic stream was empty, so the error's record is its only one (60_exceptions.md R167). -/
theorem takeRuntimeError (h : s.Inv) (hrun : s.status = .running) (c : Cause) : (s.takeRuntimeError c).Inv := by
  obtain ⟨_, _, _, hdiag⟩ := h.report_of_running hrun
  exact { h with
    report := ⟨fun _ => ⟨c.code_range, rfl, by simp [hdiag]⟩, fun hne => absurd rfl hne⟩ }

/-! ## Every instruction and every step -/

theorem afterHalt (h : s.Inv) (hrun : s.status = .running) (hip : s.ip.toNat < s.code.length) : s.afterHalt.Inv :=
  ((((h.emit ..).clearRegs.truncate 0).freeAll.setFlag false).advance hrun hip).halted hrun

theorem of_completes (h : s.Inv) (hrun : s.status = .running) (hip : s.ip.toNat < s.code.length) {i : Instr}
    (hc : Completes s i t) : t.Inv := by
  cases hc with
  | next hw =>
    have same := hw.sameControl
    exact (h.of_dataWrites hw).advance (same.status.trans hrun) (by rwa [same.ip, same.code])
  | jump hw hn =>
    have same := hw.sameControl
    exact (h.of_dataWrites hw).jumpTo (same.status.trans hrun) (by rwa [State.codeSize, same.code])
  | bool _ c b => exact (h.writeBool c b).advance hrun hip
  | takenJump _ hn => exact (h.setFlag false).jumpTo hrun hn
  | out a => exact (h.emit ..).advance hrun hip
  | halt => exact h.afterHalt hrun hip

theorem of_exec (h : s.Inv) (hrun : s.status = .running) (hip : s.ip.toNat < s.code.length) {i : Instr}
    (he : exec i s = .next t) : t.Inv := by
  rcases exec_next he with hc | ⟨c, rfl⟩
  · exact h.of_completes hrun hip hc
  · exact h.takeRuntimeError hrun c

end State.Inv

/-- A step that gives a next state does nothing, or takes the error of the fetch or of the decoder, or executes the
instruction it fetched (60_exceptions.md R166). -/
theorem step_next {s t : State} (h : step s = .next t) :
    (s.status ≠ .running ∧ t = s) ∨
      s.status = .running ∧
        ((∃ c, t = s.takeRuntimeError c) ∨ ∃ i, s.ip.toNat < s.code.length ∧ exec i s = .next t) := by
  unfold step at h
  split at h
  case h_1 hrun =>
    refine .inr ⟨hrun, ?_⟩
    split at h
    · exact .inl ⟨_, (Host.Outcome.next.inj h).symm⟩
    · next w hfetch =>
      have hip := (List.getElem?_eq_some_iff.mp hfetch).1
      split at h
      · exact .inl ⟨_, (Host.Outcome.next.inj h).symm⟩
      · next i _ => exact .inr ⟨i, hip, h⟩
  all_goals
    next hstop => exact .inl ⟨by simp [hstop], (Host.Outcome.next.inj h).symm⟩

/-- Settles O15: the invariant is inductive, one lemma for each write that an instruction is made of. -/
theorem stepKeepsInv : Obligations.StepKeepsInv := by
  intro s t hinv h
  rcases step_next h with ⟨_, rfl⟩ | ⟨hrun, ⟨c, rfl⟩ | ⟨i, hip, hexec⟩⟩
  · exact hinv
  · exact hinv.takeRuntimeError hrun c
  · exact hinv.of_exec hrun hip hexec

end Sys2Proof.Machine
end

section
/-! PROOFS. What instructions read (10_state.md R21, R31, R33, R35). The idea: a relation of two states that agree on
what instructions read, and stay related under each write, is kept by every instruction; to differ in the flag alone
and to agree on all that a program can see are two such relations. -/

namespace Sys2Proof.Machine

/-! ## Relations of two states that instructions keep -/

/-- `s` with the items of `u` that no instruction but a conditional jump reads. -/
def State.withUnread (s u : State) : State :=
  { s with
    flag := u.flag
    pointerSlots := u.pointerSlots
    lineTable := u.lineTable
    cause := u.cause
    faultIp := u.faultIp
    faultLine := u.faultLine
    out := u.out
    diag := u.diag }

/-- A relation of two states that agree on everything instructions read, the flag apart, and that stay related when
both take the same write. -/
structure Congruence (R : State → State → Prop) : Prop where
  reads : ∀ {s s'}, R s s' → ∃ u, s' = s.withUnread u
  registers : ∀ {s s'}, R s s' → ∀ regs tags,
    R { s with regs := regs, tags := tags } { s' with regs := regs, tags := tags }
  setFlag : ∀ {s s'}, R s s' → ∀ b, R (s.setFlag b) (s'.setFlag b)
  setIp : ∀ {s s'}, R s s' → ∀ ip, R { s with ip := ip } { s' with ip := ip }
  stack : ∀ {s s'}, R s s' → ∀ slots (index : List Nat → List Nat),
    R { s with stack := slots, pointerSlots := index s.pointerSlots }
      { s' with stack := slots, pointerSlots := index s'.pointerSlots }
  slab : ∀ {s s'}, R s s' → ∀ slab, R { s with slab := slab } { s' with slab := slab }
  allocator : ∀ {s s'}, R s s' → ∀ tree pool,
    R { s with tree := tree, pool := pool } { s' with tree := tree, pool := pool }
  emit : ∀ {s s'}, R s s' → ∀ kind bits, R (s.emit kind bits) (s'.emit kind bits)
  takeRuntimeError : ∀ {s s'}, R s s' → ∀ c, R (s.takeRuntimeError c) (s'.takeRuntimeError c)
  halted : ∀ {s s'}, R s s' → R s.halted s'.halted

/-- Two runs of pseudocode end alike: with related answers, or at the same stop. -/
def Agree {α : Type} (Q : α → α → Prop) : Except Stop α → Except Stop α → Prop
  | .ok a, .ok a' => Q a a'
  | .error e, .error e' => e = e'
  | _, _ => False

/-- Whenever the first outcome is a next state, the second is a related one. -/
def Follows (R : State → State → Prop) (r r' : StepResult) : Prop :=
  ∀ t, r = .next t → ∃ t', r' = .next t' ∧ R t t'

section Agreement
variable {α β : Type} {P : α → α → Prop} {Q : β → β → Prop} {R : State → State → Prop}

theorem agree_bind {x x' : Except Stop α} {f f' : α → Except Stop β} (hx : Agree P x x')
    (hf : ∀ a a', P a a' → Agree Q (f a) (f' a')) : Agree Q (x >>= f) (x' >>= f') :=
  match x, x', hx with
  | .ok a, .ok a', ha => hf a a' ha
  | .error _, .error _, he => he

/-- Both runs read the same. -/
theorem agree_read {x : Except Stop α} {f f' : α → Except Stop β} (hf : ∀ a, Agree Q (f a) (f' a)) :
    Agree Q (x >>= f) (x >>= f') :=
  match x with
  | .ok a => hf a
  | .error _ => rfl

theorem agree_ite {c : Prop} [Decidable c] {x x' y y' : Except Stop α} (hx : Agree P x x') (hy : Agree P y y') :
    Agree P (if c then x else y) (if c then x' else y') := by
  split
  exacts [hx, hy]

theorem follows_next {t t' : State} (h : R t t') : Follows R (.next t) (.next t') := by
  rintro _ ⟨⟩
  exact ⟨t', rfl, h⟩

theorem follows_settle (hR : Congruence R) {s s' : State} (h : R s s') {x x' : Except Stop State}
    (hx : Agree R x x') : Follows R (s.settle x) (s'.settle x') :=
  match x, x', hx with
  | .ok _, .ok _, ht => follows_next ht
  | .error (.cause c), .error _, rfl => follows_next (hR.takeRuntimeError h c)
  | .error (.stuck _), .error _, rfl => nofun

end Agreement

namespace Congruence

variable {R : State → State → Prop} {s u : State}

/-! ## One agreement for each shared operation

The second state is written `s.withUnread u`, so that what it reads is by definition what `s` reads. -/

theorem advance (hR : Congruence R) {s s' : State} (h : R s s') : R s.advance s'.advance := by
  obtain ⟨u, rfl⟩ := hR.reads h
  exact hR.setIp h _

theorem setReg (hR : Congruence R) (h : R s (s.withUnread u)) (c : Reg) (v : Cell64) (kind : TagKind) :
    R (s.setReg c v kind) ((s.withUnread u).setReg c v kind) := hR.registers h _ _

theorem copyReg (hR : Congruence R) (h : R s (s.withUnread u)) (c : Reg) (v : Cell64) (g : Tag) :
    R (s.copyReg c v g) ((s.withUnread u).copyReg c v g) := hR.registers h _ _

theorem writeReg (hR : Congruence R) {s s' : State} (h : R s s') (c : Reg) (v : Cell64) (kind : TagKind) :
    R (s.setReg c v kind).advance (s'.setReg c v kind).advance := by
  obtain ⟨u, rfl⟩ := hR.reads h
  exact hR.advance (hR.setReg h c v kind)

theorem writeBool (hR : Congruence R) (h : R s (s.withUnread u)) (c : Reg) (b : Bool) :
    R (s.writeBool c b).advance ((s.withUnread u).writeBool c b).advance :=
  hR.advance (hR.setFlag (hR.setReg h c (boolCell b) .raw) b)

theorem push (hR : Congruence R) (h : R s (s.withUnread u)) (v : Cell64) (g : Tag) :
    Agree R (s.push v g) ((s.withUnread u).push v g) :=
  agree_ite (c := s.stack.length ≥ s.cfg.stackCap) rfl
    (hR.stack h _ fun p => if isPtrTag g then insertIndex s.stack.length p else p)

theorem pop (hR : Congruence R) (h : R s (s.withUnread u)) :
    Agree (fun x x' => x.1 = x'.1 ∧ R x.2 x'.2) s.pop (s.withUnread u).pop := by
  cases htop : s.stack.getLast? with
  | none => simp only [State.pop, State.withUnread, htop, Agree]
  | some slot =>
    simp only [State.pop, State.withUnread, htop]
    exact ⟨rfl, hR.stack h _ (removeIndex (s.stack.length - 1))⟩

theorem memWrite (hR : Congruence R) {s s' : State} (h : R s s') (a n : Nat) (v : Cell64) :
    Agree R (s.memWrite a n v) (s'.memWrite a n v) := by
  obtain ⟨u, rfl⟩ := hR.reads h
  exact agree_ite (c := inSlab s.cfg a n) (hR.slab h _) rfl

theorem alloc (hR : Congruence R) (h : R s (s.withUnread u)) (k : Nat) :
    Agree (fun x x' => x.1 = x'.1 ∧ R x.2 x'.2) (s.alloc k) ((s.withUnread u).alloc k) := by
  cases hk : allocBlock s.cfg s.tree s.pool k with
  | found a tree pool =>
    simp only [State.alloc, State.withUnread, hk]
    exact ⟨rfl, hR.allocator h tree pool⟩
  | oom => simp only [State.alloc, State.withUnread, hk, Agree]
  | poolEmpty => simp only [State.alloc, State.withUnread, hk, Agree]

theorem afterHalt (hR : Congruence R) (h : R s (s.withUnread u)) : R s.afterHalt (s.withUnread u).afterHalt :=
  have cleared := hR.stack (hR.registers (hR.emit h _ _) _ _) _ (List.filter fun k => k < 0)
  hR.halted (hR.advance (hR.setFlag (hR.allocator cleared _ _) false))

/-- A conditional jump, both states with the same flag. -/
theorem conditional (hR : Congruence R) (h : R s (s.withUnread u)) (hflag : s.flag = u.flag) (target : Int) :
    Agree R (if s.flag then do return (s.setFlag false).jumpTo (← s.checkTarget target) else .ok s.advance)
      (if u.flag then do return ((s.withUnread u).setFlag false).jumpTo (← (s.withUnread u).checkTarget target)
        else .ok (s.withUnread u).advance) := by
  rw [← hflag]
  exact agree_ite (agree_read fun _ => hR.setIp (hR.setFlag h false) _) (hR.advance h)

/-! ## Every instruction -/

/-- An instruction takes related states to related states; only a conditional jump needs their flags to be equal. -/
theorem follows_exec (hR : Congruence R) {s s' : State} (h : R s s') (i : Instr)
    (hflag : IsConditionalJump i → s.flag = s'.flag) : Follows R (exec i s) (exec i s') := by
  obtain ⟨u, rfl⟩ := hR.reads h
  cases i with
  | halt => exact follows_next (hR.afterHalt h)
  | out a => exact follows_next (hR.advance (hR.emit h _ _))
  | move a b => exact follows_next (hR.advance (hR.copyReg h ..))
  | constLow | constLowNegative | constMidLow | constMidHigh | constHigh | intAdd | intSubtract | intMultiply | uintAdd
  | uintSubtract | uintMultiply | floatAdd | floatSubtract | floatMultiply | floatDivide | doubleAdd | doubleSubtract
  | doubleMultiply | doubleDivide => exact follows_next (hR.writeReg h ..)
  | bitAnd | bitOr => exact follows_next (hR.advance (hR.registers h _ _))
  | equal | notEqual | intLess | intLessEqual | uintLess | uintLessEqual | floatEqual | floatNotEqual | floatLess
  | floatLessEqual | doubleEqual | doubleNotEqual | doubleLess | doubleLessEqual | test =>
    exact follows_next (hR.writeBool h ..)
  | intDivide a b c => exact follows_settle hR h (agree_ite (c := s.asSigned b = 0) rfl (hR.writeReg h ..))
  | uintDivide a b c => exact follows_settle hR h (agree_ite (c := s.asUnsigned b = 0) rfl (hR.writeReg h ..))
  | push a => exact follows_settle hR h (agree_bind (hR.push h _ _) fun _ _ ht => hR.advance ht)
  | pop a =>
    refine follows_settle hR h (agree_bind (hR.pop h) ?_)
    rintro ⟨slot, t⟩ ⟨_, t'⟩ ⟨rfl, ht⟩
    obtain ⟨w, rfl⟩ := hR.reads ht
    exact hR.advance (hR.copyReg ht ..)
  | moveFromStackFrame a b =>
    exact follows_settle hR h (agree_read (x := s.frameSlot a) fun _ => hR.advance (hR.copyReg h ..))
  | moveToStackFrame a b =>
    exact follows_settle hR h (agree_read (x := s.frameSlot a) fun ⟨k, _⟩ =>
      hR.advance (hR.stack h _ (markSlot k (s.tag b))))
  | pushIp imm24 =>
    exact follows_settle hR h (agree_read (x := s.checkTarget (s.relTarget imm24)) fun _ =>
      agree_bind (hR.push h _ _) fun _ _ ht => hR.advance ht)
  | newStackFrame =>
    refine follows_settle hR h (agree_bind (hR.push h _ _) fun t t' ht => ?_)
    obtain ⟨w, rfl⟩ := hR.reads ht
    exact hR.writeReg ht ..
  | ret =>
    exact follows_settle hR h (agree_read (x := s.linkage) fun ⟨base, ret, saved⟩ =>
      agree_read (x := s.checkTarget ret.toNat) fun _ =>
        hR.setIp (hR.stack (hR.copyReg h ..) _ (List.filter fun k => k < base - 1)) _)
  | jump imm24 =>
    exact follows_settle hR h (agree_read (x := s.checkTarget (s.relTarget imm24)) fun _ => hR.setIp h _)
  | jumpAbs a =>
    exact follows_settle hR h (agree_read (x := s.checkTarget (s.asUnsigned a)) fun _ => hR.setIp h _)
  | jumpIf imm24 => exact follows_settle hR h (hR.conditional h (hflag (.inl ⟨_, rfl⟩)) (s.relTarget imm24))
  | jumpAbsIf a => exact follows_settle hR h (hR.conditional h (hflag (.inr ⟨_, rfl⟩)) (s.asUnsigned a))
  | alloc a b =>
    refine follows_settle hR h (agree_read (x := s.typeOf (s.asUnsigned a)) fun _ => agree_bind (hR.alloc h _) ?_)
    rintro ⟨r, t⟩ ⟨_, t'⟩ ⟨rfl, ht⟩
    exact hR.writeReg ht ..
  | allocArray a b c =>
    refine follows_settle hR h (agree_read (x := checkSpan (s.asUnsigned b)) fun _ => agree_bind (hR.alloc h _) ?_)
    rintro ⟨r, t⟩ ⟨_, t'⟩ ⟨rfl, ht⟩
    exact agree_bind (hR.memWrite ht ..) fun _ _ h2 => agree_bind (hR.memWrite h2 ..) fun _ _ h3 => hR.writeReg h3 ..
  | structLoad a b c =>
    exact follows_settle hR h (agree_read (x := s.fieldAt a b) fun ⟨addr, kind⟩ =>
      agree_read (x := s.memRead addr kind.size) fun _ => hR.writeReg h ..)
  | arrayLoad a b c =>
    exact follows_settle hR h (agree_read (x := s.elementAt a b) fun ⟨addr, span⟩ =>
      agree_read (x := s.memRead addr span) fun _ => hR.writeReg h ..)
  | structStore a b c =>
    exact follows_settle hR h (agree_read (x := s.fieldAt a b) fun _ =>
      agree_bind (hR.memWrite h ..) fun _ _ ht => hR.advance ht)
  | arrayStore a b c =>
    exact follows_settle hR h (agree_read (x := s.elementAt a b) fun _ =>
      agree_bind (hR.memWrite h ..) fun _ _ ht => hR.advance ht)

end Congruence

/-! ## The flag, and the items no instruction reads -/

/-- The two states differ in the flag alone. -/
def SameButFlag (s s' : State) : Prop := ∃ b, s' = s.setFlag b

theorem congruence_sameButFlag : Congruence SameButFlag where
  reads := fun {s _} ⟨b, h⟩ => ⟨s.setFlag b, h⟩
  registers := fun ⟨b, h⟩ _ _ => ⟨b, h ▸ rfl⟩
  setFlag := fun ⟨_, h⟩ b => ⟨b, h ▸ rfl⟩
  setIp := fun ⟨b, h⟩ _ => ⟨b, h ▸ rfl⟩
  stack := fun ⟨b, h⟩ _ _ => ⟨b, h ▸ rfl⟩
  slab := fun ⟨b, h⟩ _ => ⟨b, h ▸ rfl⟩
  allocator := fun ⟨b, h⟩ _ _ => ⟨b, h ▸ rfl⟩
  emit := fun ⟨b, h⟩ _ _ => ⟨b, h ▸ rfl⟩
  takeRuntimeError := fun ⟨b, h⟩ _ => ⟨b, h ▸ rfl⟩
  halted := fun ⟨b, h⟩ => ⟨b, h ▸ rfl⟩

/-- Settles O21: to differ in the flag alone is a congruence, and none of these instructions is a conditional jump. -/
theorem flagReaders : Obligations.FlagReaders := by
  intro i s t b hIf hAbsIf h
  have hjump : ¬ IsConditionalJump i := by
    rintro (⟨imm24, hi⟩ | ⟨a, hi⟩)
    exacts [hIf imm24 hi, hAbsIf a hi]
  obtain ⟨_, ht', _, rfl⟩ := congruence_sameButFlag.follows_exec ⟨b, rfl⟩ i (fun hi => absurd hi hjump) t h
  exact ⟨_, ht', rfl⟩

theorem congruence_sameToProgram : Congruence SameToProgram where
  reads {s s'} h := ⟨s', by
    cases s
    cases s'
    obtain ⟨rfl, rfl, rfl, rfl, rfl, rfl, rfl, rfl, rfl, rfl, rfl, rfl⟩ := h
    rfl⟩
  registers h _ _ := { h with regs := rfl, tags := rfl }
  setFlag h _ := { h with flag := rfl }
  setIp h _ := { h with ip := rfl }
  stack h _ _ := { h with stack := rfl }
  slab h _ := { h with slab := rfl }
  allocator h _ _ := { h with tree := rfl, pool := rfl }
  emit h _ _ := { h with }
  takeRuntimeError h _ := { h with status := rfl }
  halted h := { h with status := rfl }

theorem SameToProgram.follows_step {s s' : State} (same : SameToProgram s s') :
    Follows SameToProgram (step s) (step s') := by
  have hfetch : s'.fetch = s.fetch := by rw [State.fetch, State.fetch, same.code, same.ip]
  unfold step
  rw [hfetch, ← same.status]
  split
  · split
    · exact follows_next (congruence_sameToProgram.takeRuntimeError same _)
    · split
      · exact follows_next (congruence_sameToProgram.takeRuntimeError same _)
      · next i _ => exact congruence_sameToProgram.follows_exec same i fun _ => same.flag
  all_goals exact follows_next same

/-- Settles O22: to agree on all that instructions read is a congruence, and related states fetch the same word. -/
theorem unreadStateIsInvisible : Obligations.UnreadStateIsInvisible := fun _ _ t same h => same.follows_step t h

end Sys2Proof.Machine
end

section
/-! PROOFS. Heap accesses are little-endian and checked against the slab alone (20_memory.md R45, R46, R47). -/

namespace Sys2Proof.Machine

theorem State.memRead_inSlab {s : State} {a n : Nat} (h : inSlab s.cfg a n) :
    s.memRead a n = .ok (s.slab.readLE a n) := if_pos h

theorem State.memRead_outside {s : State} {a n : Nat} (h : ¬ inSlab s.cfg a n) :
    s.memRead a n = .error (.cause .addressOutOfRange) := if_neg h

theorem State.memWrite_inSlab {s : State} {a n : Nat} (v : Cell64) (h : inSlab s.cfg a n) :
    s.memWrite a n v = .ok { s with slab := s.slab.writeLE a v.toNat n } := if_pos h

theorem State.memWrite_outside {s : State} {a n : Nat} (v : Cell64) (h : ¬ inSlab s.cfg a n) :
    s.memWrite a n v = .error (.cause .addressOutOfRange) := if_neg h

/-- Byte j of a value, as a quotient and as a bit field. -/
theorem ofNat_div_eq_extractLsb' (v : Cell64) (j : Nat) :
    BitVec.ofNat 8 (v.toNat / 256 ^ j) = v.extractLsb' (8 * j) 8 := by
  rw [BitVec.extractLsb', Nat.shiftRight_eq_div_pow, Nat.pow_mul]

theorem storesBytes_writeLE (s : State) (a n : Nat) (v : Cell64) :
    StoresBytes s { s with slab := s.slab.writeLE a v.toNat n } a n v :=
  ⟨fun j hj => (Memory.byte_writeLE_inside n s.slab a v.toNat j hj).trans (ofNat_div_eq_extractLsb' v j),
    fun x hx => Memory.byte_writeLE_outside n s.slab a v.toNat x hx⟩

/-- A new slab is a change of the heap alone. -/
theorem sameBut_slab (s : State) (slab : Memory) : SameBut s { s with slab := slab } [] [.heap] where
  loaded := ⟨rfl, rfl, rfl, rfl⟩
  registers _ _ := ⟨rfl, rfl⟩
  flag _ := rfl
  stack _ := ⟨rfl, rfl⟩
  heap hheap := absurd (List.mem_singleton.mpr rfl) hheap
  allocator _ := ⟨rfl, rfl⟩
  out _ := rfl
  report _ := ⟨rfl, rfl, rfl, rfl, rfl⟩

/-- Settles O48: the two primitives test the slab alone and then read or write the bytes one by one. -/
theorem heapAccessIsLittleEndian : Obligations.HeapAccessIsLittleEndian := by
  refine ⟨fun _ _ _ => Iff.rfl, fun m a n => m.readLE_eq_sum n a, fun s a n v _ => ⟨fun hout => ?_, fun hin => ?_⟩⟩
  · exact ⟨State.memRead_outside hout, State.memWrite_outside v hout⟩
  · refine ⟨?_, _, State.memWrite_inSlab v hin, storesBytes_writeLE s a n v, rfl, sameBut_slab s _⟩
    rw [State.memRead_inSlab hin, Memory.readLE_eq_sum]

end Sys2Proof.Machine
end

section
/-! PROOFS. The leaves of a tree of the right shape: they tile its bytes in address order, each an aligned block
(20_memory.md R44, R58). -/

namespace Sys2Proof.Machine

/-! ## Tilings -/

theorem Tiles.append {xs ys : List (Nat × Nat × Bool)} {lo mid hi : Nat} (hx : Tiles xs lo mid)
    (hy : Tiles ys mid hi) : Tiles (xs ++ ys) lo hi := by
  induction xs generalizing lo with
  | nil => exact (show lo = mid from hx) ▸ hy
  | cons x xs ih => exact ⟨hx.1, ih hx.2⟩

theorem Tiles.le_of_mem {xs : List (Nat × Nat × Bool)} {lo hi b x : Nat} {p : Bool} (h : Tiles xs lo hi)
    (hb : (b, x, p) ∈ xs) : lo ≤ b := by
  induction xs generalizing lo with
  | nil => exact nomatch hb
  | cons head rest ih =>
    obtain ⟨hhead, hrest⟩ := h
    rcases List.mem_cons.mp hb with rfl | hb
    · exact hhead.ge
    · exact (Nat.le_add_right ..).trans (ih hrest hb)

/-- A tile is known by its address. -/
theorem Tiles.eq_of_mem {xs : List (Nat × Nat × Bool)} {lo hi b x y : Nat} {p q : Bool} (h : Tiles xs lo hi)
    (hx : (b, x, p) ∈ xs) (hy : (b, y, q) ∈ xs) : (x, p) = (y, q) := by
  induction xs generalizing lo with
  | nil => exact nomatch hx
  | cons head rest ih =>
    obtain ⟨c, z, r⟩ := head
    obtain ⟨rfl, hrest⟩ := h
    have later {w : Nat} {t : Bool} (hw : (b, w, t) ∈ rest) : c < b :=
      (Nat.lt_add_of_pos_right (Nat.two_pow_pos z)).trans_le (hrest.le_of_mem hw)
    rcases List.mem_cons.mp hx with hx | hx <;> rcases List.mem_cons.mp hy with hy | hy
    · exact (Prod.mk.inj (hx.trans hy.symm)).2
    · exact absurd (Prod.mk.inj hx).1 (later hy).ne'
    · exact absurd (Prod.mk.inj hy).1 (later hx).ne'
    · exact ih hrest hx hy

theorem Node.Shaped.tiles {m e a : Nat} {n : Node} (h : n.Shaped m e a) : Tiles n.leaves a (a + 2 ^ e) := by
  induction n generalizing e a with
  | leaf =>
    obtain ⟨rfl, rfl, _⟩ := h
    exact ⟨rfl, rfl⟩
  | split e' a' l r ihl ihr =>
    obtain ⟨rfl, rfl, hm, _, hl, hr⟩ := h
    have htiles := (ihl hl).append (ihr hr)
    rwa [Nat.add_assoc, Nat.two_pow_pred_add_two_pow_pred (Nat.zero_lt_of_lt hm)] at htiles

/-! ## The block of a leaf -/

/-- The 2^x bytes at `b` are one of the aligned blocks of the 2^e bytes at `a`, and no smaller than the floor. -/
structure BlockIn (m e a b x : Nat) : Prop where
  floor   : m ≤ x
  exp_le  : x ≤ e
  lower   : a ≤ b
  upper   : b + 2 ^ x ≤ a + 2 ^ e
  aligned : 2 ^ x ∣ b - a

namespace BlockIn

variable {m e a b x : Nat}

theorem lt (h : BlockIn m e a b x) : b < a + 2 ^ e := by
  have := h.upper
  have := Nat.two_pow_pos x
  omega

/-- A block of the low half is a block of the whole. -/
theorem of_low (h : BlockIn m (e - 1) a b x) : BlockIn m e a b x where
  floor := h.floor
  exp_le := h.exp_le.trans (Nat.sub_le ..)
  lower := h.lower
  upper := by
    have := h.upper
    have := Nat.pow_le_pow_right (n := 2) (by omega) (Nat.sub_le e 1)
    omega
  aligned := h.aligned

/-- A block of the high half is a block of the whole. -/
theorem of_high (he : 0 < e) (h : BlockIn m (e - 1) (a + 2 ^ (e - 1)) b x) : BlockIn m e a b x where
  floor := h.floor
  exp_le := h.exp_le.trans (Nat.sub_le ..)
  lower := (Nat.le_add_right ..).trans h.lower
  upper := by
    have := h.upper
    have := Nat.two_pow_pred_add_two_pow_pred he
    omega
  aligned := by
    have hsum : b - a = b - (a + 2 ^ (e - 1)) + 2 ^ (e - 1) := by
      rw [← Nat.sub_sub, Nat.sub_add_cancel (Nat.le_sub_of_add_le' h.lower)]
    exact hsum ▸ Nat.dvd_add h.aligned (Nat.pow_dvd_pow 2 h.exp_le)

end BlockIn

theorem Node.Shaped.blockIn {m e a b x : Nat} {p : Bool} {n : Node} (h : n.Shaped m e a)
    (hb : (b, x, p) ∈ n.leaves) : BlockIn m e a b x := by
  induction n generalizing e a with
  | leaf =>
    obtain ⟨rfl, rfl, hm⟩ := h
    obtain ⟨rfl, rfl, rfl⟩ : b = _ ∧ x = _ ∧ p = _ := by simpa [Node.leaves] using hb
    exact ⟨hm, le_rfl, le_rfl, le_rfl, by simp⟩
  | split e' a' l r ihl ihr =>
    obtain ⟨rfl, rfl, hm, _, hl, hr⟩ := h
    rcases List.mem_append.mp hb with hb | hb
    · exact (ihl hl hb).of_low
    · exact (ihr hr hb).of_high (Nat.zero_lt_of_lt hm)

theorem Node.mem_allocatedLeaves {n : Node} {b x : Nat} : (b, x) ∈ n.allocatedLeaves ↔ (b, x, true) ∈ n.leaves := by
  induction n with
  | leaf e a allocated => cases allocated <;> simp [Node.allocatedLeaves, Node.leaves]
  | split e a l r ihl ihr => simp only [Node.allocatedLeaves, Node.leaves, List.mem_append, ihl, ihr]

/-- Settles O52: the root covers the slab, and both facts pass from the halves to the whole. -/
theorem leavesPartitionSlab : Obligations.LeavesPartitionSlab := by
  intro cfg tree pool h
  refine ⟨h.shaped.tiles, fun a e allocated hleaf => ?_⟩
  have hblock := h.shaped.blockIn hleaf
  exact ⟨hblock.floor, hblock.exp_le, hblock.aligned⟩

end Sys2Proof.Machine
end

section
/-! PROOFS. `Alloc` answers the lowest free block that is large enough (20_memory.md R61, R62). The idea: a depth-first,
left-first search meets the leaves in address order, so that what it finds is the lowest. -/

namespace Sys2Proof.Machine

/-! ## The search -/

/-- A search that finds nothing has met no free leaf that is large enough; it skips a node smaller than `k`, and the
leaves of a tree of the right shape are no larger than their node. -/
theorem Node.search_none {m k e a : Nat} {n : Node} (hn : n.Shaped m e a) (h : n.search k = none) :
    ∀ b x, (b, x, false) ∈ n.leaves → x < k := by
  intro b x hb
  induction n generalizing e a with
  | leaf e' a' allocated =>
    obtain ⟨_, rfl, rfl⟩ : b = a' ∧ x = e' ∧ false = allocated := by simpa [Node.leaves] using hb
    simp only [Node.search] at h
    split at h
    · next hsmall => exact hsmall
    · exact nomatch h
  | split e' a' l r ihl ihr =>
    have hx := (hn.blockIn hb).exp_le
    obtain ⟨rfl, rfl, _, _, hl, hr⟩ := hn
    simp only [Node.search] at h
    split at h
    · next hsmall => exact hx.trans_lt hsmall
    · split at h
      · exact nomatch h
      · next hnoneL =>
        split at h
        · exact nomatch h
        · next hnoneR =>
          rcases List.mem_append.mp hb with hb | hb
          · exact ihl hl hnoneL hb
          · exact ihr hr hnoneR hb

/-- How a search succeeds: at a free leaf, in the low half, or in the high half after none was found in the low one. -/
inductive Node.Finds (k : Nat) : Node → Nat → Node → Nat → Prop
  | leaf (a d : Nat) : Finds k (.leaf (k + d) a false) a (carve k a d) d
  | low {l l' : Node} {b splits : Nat} (e a : Nat) (r : Node) (h : Finds k l b l' splits) :
    Finds k (.split e a l r) b (.split e a l' r) splits
  | high {r r' : Node} {b splits : Nat} (e a : Nat) {l : Node} (hl : l.search k = none) (h : Finds k r b r' splits) :
    Finds k (.split e a l r) b (.split e a l r') splits

theorem Node.finds_of_search {k b splits : Nat} {n n' : Node} (h : n.search k = some (b, n', splits)) :
    n.Finds k b n' splits := by
  induction n generalizing n' splits with
  | leaf e a allocated =>
    simp only [Node.search] at h
    split at h
    · exact nomatch h
    · next hk =>
      obtain ⟨d, rfl⟩ := Nat.exists_eq_add_of_le (Nat.not_lt.mp hk)
      cases allocated with
      | true => exact nomatch h
      | false =>
        cases h
        rw [Nat.add_sub_cancel_left]
        exact .leaf ..
  | split e a l r ihl ihr =>
    simp only [Node.search] at h
    split at h
    · exact nomatch h
    · split at h
      · next hsome =>
        cases h
        exact .low e a r (ihl hsome)
      · next hnone =>
        split at h
        · next hsome =>
          cases h
          exact .high e a hnone (ihr hsome)
        · exact nomatch h

/-- What a search finds is the lowest free leaf that is large enough. -/
theorem Node.Finds.lowest {m k e a b splits : Nat} {n n' : Node} (h : n.Finds k b n' splits) (hn : n.Shaped m e a) :
    LowestFree n k b := by
  induction h generalizing e a with
  | leaf b d => exact ⟨⟨k + d, List.mem_singleton_self _, Nat.le_add_right ..⟩, fun c x hc _ => by simp_all [Node.leaves]⟩
  | low _ _ _ _ ih =>
    obtain ⟨rfl, rfl, _, _, hl, hr⟩ := hn
    obtain ⟨⟨x, hx, hkx⟩, hlow⟩ := ih hl
    refine ⟨⟨x, List.mem_append_left _ hx, hkx⟩, fun c y hc hky => ?_⟩
    rcases List.mem_append.mp hc with hc | hc
    · exact hlow c y hc hky
    · exact (hl.blockIn hx).lt.le.trans (hr.blockIn hc).lower
  | high _ _ hnone _ ih =>
    obtain ⟨rfl, rfl, _, _, hl, hr⟩ := hn
    obtain ⟨⟨x, hx, hkx⟩, hlow⟩ := ih hr
    refine ⟨⟨x, List.mem_append_right _ hx, hkx⟩, fun c y hc hky => ?_⟩
    rcases List.mem_append.mp hc with hc | hc
    · exact absurd hky (Nat.not_le.mpr (Node.search_none hl hnone c y hc))
    · exact hlow c y hc hky

/-- The block found is an aligned block of the node, and no larger than it. -/
theorem Node.Finds.blockIn {m k e a b splits : Nat} {n n' : Node} (h : n.Finds k b n' splits) (hn : n.Shaped m e a) :
    ∃ x, k ≤ x ∧ BlockIn m e a b x := by
  obtain ⟨⟨x, hx, hkx⟩, _⟩ := h.lowest hn
  exact ⟨x, hkx, hn.blockIn hx⟩

theorem LowestFree.unique {n : Node} {k a b : Nat} (ha : LowestFree n k a) (hb : LowestFree n k b) : a = b := by
  obtain ⟨⟨x, hx, hkx⟩, hlowA⟩ := ha
  obtain ⟨⟨y, hy, hky⟩, hlowB⟩ := hb
  exact le_antisymm (hlowA b y hy hky) (hlowB a x hx hkx)

/-! ## Alloc -/

theorem allocBlock_oom {cfg : Config} {tree : Node} {pool k0 : Nat} (h : allocBlock cfg tree pool k0 = .oom) :
    cfg.slabExp < max k0 cfg.minExp ∨ tree.search (max k0 cfg.minExp) = none := by
  unfold allocBlock at h
  dsimp only at h
  split at h
  · next hk => exact .inl hk
  · split at h
    · next hs => exact .inr hs
    · split at h <;> exact nomatch h

section
variable {cfg : Config} {tree tree' : Node} {pool pool' k0 a : Nat}

/-- The answer of a successful `Alloc` is the lowest free leaf that is large enough. -/
theorem allocBlock_found_lowest (h : AllocatorInv cfg tree pool)
    (hf : allocBlock cfg tree pool k0 = .found a tree' pool') : LowestFree tree (max k0 cfg.minExp) a := by
  obtain ⟨_, _, hs, _, _⟩ := allocBlock_found hf
  exact (Node.finds_of_search hs).lowest h.shaped

/-- `Alloc` answers `OOM` only when no free leaf is large enough. -/
theorem allocBlock_oom_small (h : AllocatorInv cfg tree pool) (hf : allocBlock cfg tree pool k0 = .oom) {b x : Nat}
    (hb : (b, x, false) ∈ tree.leaves) : x < max k0 cfg.minExp := by
  rcases allocBlock_oom hf with hk | hs
  · exact (h.shaped.blockIn hb).exp_le.trans_lt hk
  · exact Node.search_none h.shaped hs b x hb

/-- Exactly the block answered is added to the allocated leaves. -/
theorem allocBlock_found_leaves (h : AllocatorInv cfg tree pool)
    (hf : allocBlock cfg tree pool k0 = .found a tree' pool') (leaf : Nat × Nat) :
    leaf ∈ tree'.allocatedLeaves ↔ leaf ∈ tree.allocatedLeaves ∨ leaf = (a, max k0 cfg.minExp) := by
  obtain ⟨_, _, hs, _, _⟩ := allocBlock_found hf
  obtain ⟨_, _, _, hleaves⟩ := Node.search_some h.shaped (Nat.le_max_right ..) hs
  exact hleaves leaf

end

/-- Settles O49: the three answers of `Alloc`, of which the invariant rules out the empty pool. -/
theorem allocFindsLowestBlock : Obligations.AllocFindsLowestBlock := by
  rintro cfg tree pool k0 _ h rfl
  refine ⟨fun hsmall => ?_, fun a hlow => ?_⟩
  · cases hf : allocBlock cfg tree pool k0 with
    | found a tree' pool' =>
      obtain ⟨⟨x, hx, hkx⟩, _⟩ := allocBlock_found_lowest h hf
      exact absurd (hsmall _ hx rfl) (Nat.not_lt.mpr hkx)
    | oom => rfl
    | poolEmpty => exact absurd hf (allocBlock_pool h)
  · obtain ⟨x, hx, hkx⟩ := hlow.1
    cases hf : allocBlock cfg tree pool k0 with
    | found b tree' pool' =>
      obtain rfl := hlow.unique (allocBlock_found_lowest h hf)
      refine ⟨tree', pool', rfl, allocBlock_inv h hf, allocBlock_found_leaves h hf, fun hmem => ?_⟩
      exact absurd (h.shaped.tiles.eq_of_mem hx (Node.mem_allocatedLeaves.mp hmem)) (by simp)
    | oom => exact absurd (allocBlock_oom_small h hf hx) (Nat.not_lt.mpr hkx)
    | poolEmpty => exact absurd hf (allocBlock_pool h)

end Sys2Proof.Machine
end

section
/-! PROOFS. `Free` of an allocated leaf undoes an `Alloc` and never faults (20_memory.md R63, R64, R65). The idea:
`freeBlock` and `giveBack` both treat a leaf from above, the one at the root and the other as a child; written as one
recursion that ends at the leaf itself, `Free` has one equation per half. -/

namespace Sys2Proof.Machine

/-! ## Free in a subtree -/

/-- Free the leaf of exponent `k` at address `b` below a node: the node itself at its own exponent, else the return
walk. Answers the subtree after and the records its merges return. -/
def Node.release (n : Node) (b k : Nat) : Except Cause (Node × Nat) :=
  if k = n.e then (releaseLeaf n b).map fun n' => (n', 0) else n.giveBack b k

theorem freeRoot_eq_releaseLeaf (n : Node) (b : Nat) : freeRoot n b = releaseLeaf n b := by
  cases n with
  | leaf e a allocated => cases allocated <;> simp [freeRoot, releaseLeaf, eq_comm]
  | split => rfl

theorem release_ok {n n' : Node} {b k c : Nat} (h : n.release b k = .ok (n', c)) :
    (k = n.e ∧ releaseLeaf n b = .ok n' ∧ c = 0) ∨ (k ≠ n.e ∧ n.giveBack b k = .ok (n', c)) := by
  unfold Node.release at h
  split at h
  · next hk =>
    cases hr : releaseLeaf n b with
    | ok n1 =>
      obtain ⟨rfl, rfl⟩ := Prod.mk.inj (Except.ok.inj (hr ▸ h))
      exact .inl ⟨hk, rfl, rfl⟩
    | error f => exact nomatch (hr ▸ h)
  · next hk => exact .inr ⟨hk, h⟩

/-- `Free` on a tree that spans the slab is `release` at the root. -/
theorem freeBlock_of_release {cfg : Config} {tree tree' : Node} {pool b k c : Nat} (he : tree.e = cfg.slabExp)
    (h : tree.release b k = .ok (tree', c)) : freeBlock cfg tree pool b k = .ok (tree', pool + c) := by
  unfold freeBlock
  rcases release_ok h with ⟨hk, hleaf, rfl⟩ | ⟨hk, hgive⟩
  · rw [if_pos (hk.trans he), freeRoot_eq_releaseLeaf, hleaf, Nat.add_zero]
  · rw [if_neg (he ▸ hk), hgive]

theorem release_leaf (e a : Nat) : (Node.leaf e a true).release a e = .ok (.leaf e a false, 0) := by
  simp [Node.release, Node.e, releaseLeaf, Except.map]

section
variable {e a b k c : Nat} {l l' r r' : Node}

/-- A block of the low half is freed there. -/
theorem release_split_low (he : l.e = e - 1) (hk : k < e) (hb : a ≤ b ∧ b < a + 2 ^ (e - 1))
    (h : l.release b k = .ok (l', c)) :
    (Node.split e a l r).release b k = .ok ((mergeNode e a l' r).1, c + (mergeNode e a l' r).2) := by
  rw [Node.release, Node.e, if_neg hk.ne, Node.giveBack, if_neg (Nat.not_le.mpr hk), if_pos hb]
  rcases release_ok h with ⟨hke, hleaf, rfl⟩ | ⟨hke, hgive⟩
  · rw [if_pos (hke.trans he), hleaf, Nat.zero_add]
  · rw [if_neg (he ▸ hke), hgive]

/-- A block of the high half is freed there. -/
theorem release_split_high (he : r.e = e - 1) (hk : k < e) (hb : a + 2 ^ (e - 1) ≤ b ∧ b < a + 2 ^ e)
    (h : r.release b k = .ok (r', c)) :
    (Node.split e a l r).release b k = .ok ((mergeNode e a l r').1, c + (mergeNode e a l r').2) := by
  rw [Node.release, Node.e, if_neg hk.ne, Node.giveBack, if_neg (Nat.not_le.mpr hk),
    if_neg fun hlow => Nat.not_lt.mpr hb.1 hlow.2, if_pos hb]
  rcases release_ok h with ⟨hke, hleaf, rfl⟩ | ⟨hke, hgive⟩
  · rw [if_pos (hke.trans he), hleaf, Nat.zero_add]
  · rw [if_neg (he ▸ hke), hgive]

/-! ## Merging -/

theorem mergeNode_of_not_free (h : ¬ (l.isFreeLeaf = true ∧ r.isFreeLeaf = true)) :
    mergeNode e a l r = (.split e a l r, 0) := if_neg (by rwa [Bool.and_eq_true])

theorem isFreeLeaf_iff {n : Node} : n.isFreeLeaf = true ↔ ∃ e a, n = .leaf e a false := by
  cases n <;> simp [Node.isFreeLeaf]

/-- A merge joins free leaves alone. -/
theorem mergeNode_allocatedLeaves :
    (mergeNode e a l r).1.allocatedLeaves = l.allocatedLeaves ++ r.allocatedLeaves := by
  by_cases h : l.isFreeLeaf = true ∧ r.isFreeLeaf = true
  · obtain ⟨⟨_, _, rfl⟩, ⟨_, _, rfl⟩⟩ := h.imp isFreeLeaf_iff.mp isFreeLeaf_iff.mp
    rfl
  · rw [mergeNode_of_not_free h]
    rfl

end

/-! ## Freeing what a search has allocated -/

/-- Freeing the innermost low block merges a carved leaf back, level by level. -/
theorem carve_release (k a d : Nat) : (carve k a d).release a k = .ok (.leaf (k + d) a false, 2 * d) := by
  induction d with
  | zero => exact release_leaf k a
  | succ d ih =>
    have he : (carve k a d).e = k + d + 1 - 1 := (carve_shaped le_rfl a d).e_eq
    exact release_split_low he (by omega) ⟨le_rfl, Nat.lt_add_of_pos_right (Nat.two_pow_pos _)⟩ ih

/-- A search changes no node's exponent. -/
theorem Node.Finds.exp_eq {m k e a b splits : Nat} {n n' : Node} (h : n.Finds k b n' splits) (hn : n.Shaped m e a) :
    n'.e = e := by
  cases h with
  | leaf => exact (carve_shaped le_rfl ..).e_eq.trans hn.1
  | low => exact hn.1
  | high => exact hn.1

/-- Freeing the block a search has found restores the subtree and returns the records of its splits. -/
theorem Node.Finds.release {m k e a b splits : Nat} {n n' : Node} (h : n.Finds k b n' splits)
    (hn : n.Shaped m e a) : n'.release b k = .ok (n, 2 * splits) := by
  induction h generalizing e a with
  | leaf b d => exact carve_release k b d
  | low _ _ _ h ih =>
    obtain ⟨rfl, rfl, hme, hfree, hl, hr⟩ := hn
    obtain ⟨x, hkx, hblock⟩ := h.blockIn hl
    have hx := hblock.exp_le
    rw [release_split_low (h.exp_eq hl) (by omega) ⟨hblock.lower, hblock.lt⟩ (ih hl), mergeNode_of_not_free hfree]
    rfl
  | high _ _ _ h ih =>
    obtain ⟨rfl, rfl, hme, hfree, hl, hr⟩ := hn
    obtain ⟨x, hkx, hblock⟩ := h.blockIn hr
    have hx := hblock.exp_le
    rw [release_split_high (h.exp_eq hr) (by omega) ⟨hblock.lower, (hblock.of_high (by omega)).lt⟩ (ih hr),
      mergeNode_of_not_free hfree]
    rfl

/-- Settles O51: the free walk merges exactly what the search has split. -/
theorem allocThenFreeRestoresTree : Obligations.AllocThenFreeRestoresTree := by
  intro cfg tree tree' pool pool' k0 a h hf
  obtain ⟨_, splits, hs, hpool, rfl⟩ := allocBlock_found hf
  have hroot := (allocBlock_inv h hf).shaped.e_eq
  rw [freeBlock_of_release hroot ((Node.finds_of_search hs).release h.shaped), Nat.sub_add_cancel hpool]

/-! ## Freeing every allocated leaf -/

/-- An allocated leaf can be freed, and it alone leaves the allocated leaves. -/
theorem Node.release_allocated {m e a b k : Nat} {n : Node} (hn : n.Shaped m e a) (hb : (b, k) ∈ n.allocatedLeaves) :
    ∃ n' c, n.release b k = .ok (n', c) ∧ n.allocatedLeaves.Perm ((b, k) :: n'.allocatedLeaves) := by
  induction n generalizing e a with
  | leaf e' a' allocated =>
    cases allocated with
    | false => exact nomatch hb
    | true =>
      obtain ⟨rfl, rfl⟩ := Prod.mk.inj (List.mem_singleton.mp hb)
      exact ⟨_, _, release_leaf k b, .refl _⟩
  | split e' a' l r ihl ihr =>
    obtain ⟨rfl, rfl, hme, _, hl, hr⟩ := hn
    rcases List.mem_append.mp hb with hb | hb
    · obtain ⟨l', c, hrel, hperm⟩ := ihl hl hb
      have hblock := hl.blockIn (Node.mem_allocatedLeaves.mp hb)
      have hk := hblock.exp_le
      refine ⟨_, _, release_split_low hl.e_eq (by omega) ⟨hblock.lower, hblock.lt⟩ hrel, ?_⟩
      rw [mergeNode_allocatedLeaves]
      exact hperm.append_right _
    · obtain ⟨r', c, hrel, hperm⟩ := ihr hr hb
      have hblock := hr.blockIn (Node.mem_allocatedLeaves.mp hb)
      have hk := hblock.exp_le
      refine ⟨_, _, release_split_high hr.e_eq (by omega) ⟨hblock.lower, (hblock.of_high (by omega)).lt⟩ hrel, ?_⟩
      rw [mergeNode_allocatedLeaves]
      exact (hperm.append_left _).trans List.perm_middle

/-- A tree with nothing allocated is one free leaf: two free halves would be siblings (20_memory.md R58 (d)). -/
theorem Node.Shaped.eq_free_of_none_allocated {m e a : Nat} {n : Node} (hn : n.Shaped m e a)
    (h : n.allocatedLeaves = []) : n = .leaf e a false := by
  induction n generalizing e a with
  | leaf e' a' allocated =>
    obtain ⟨rfl, rfl, _⟩ := hn
    cases allocated with
    | false => rfl
    | true => exact nomatch h
  | split e' a' l r ihl ihr =>
    obtain ⟨rfl, rfl, _, hfree, hl, hr⟩ := hn
    obtain ⟨hnoneL, hnoneR⟩ := List.append_eq_nil_iff.mp h
    exact absurd ⟨isFreeLeaf_iff.mpr ⟨_, _, ihl hl hnoneL⟩, isFreeLeaf_iff.mpr ⟨_, _, ihr hr hnoneR⟩⟩ hfree

/-- Under the invariant `Free` of an allocated leaf succeeds. -/
theorem freeBlock_allocated {cfg : Config} {tree : Node} {pool b k : Nat} (h : AllocatorInv cfg tree pool)
    (hb : (b, k) ∈ tree.allocatedLeaves) :
    ∃ tree' pool', freeBlock cfg tree pool b k = .ok (tree', pool') ∧ AllocatorInv cfg tree' pool' ∧
      tree.allocatedLeaves.Perm ((b, k) :: tree'.allocatedLeaves) := by
  obtain ⟨tree', c, hrel, hperm⟩ := Node.release_allocated h.shaped hb
  have hfree := freeBlock_of_release (pool := pool) h.shaped.e_eq hrel
  exact ⟨tree', pool + c, hfree, freeBlock_ok h hfree, hperm⟩

/-- Settles O50, by induction on the order: each `Free` leaves the rest of the order to be the allocated leaves. -/
theorem freeAllRestoresRoot : Obligations.FreeAllRestoresRoot := by
  intro cfg tree pool h order horder
  induction order generalizing tree pool with
  | nil =>
    obtain rfl := h.shaped.eq_free_of_none_allocated (List.perm_nil.mp horder.symm)
    have hrecords : 1 + pool = cfg.nodeCap := h.records
    rw [← hrecords, Nat.add_sub_cancel_left]
    rfl
  | cons leaf rest ih =>
    obtain ⟨tree', pool', hfree, hinv, hperm⟩ := freeBlock_allocated h (horder.subset List.mem_cons_self)
    rw [List.foldlM_cons, hfree]
    exact ih tree' pool' hinv (horder.trans hperm).cons_inv

end Sys2Proof.Machine
end

section
/-! PROOFS. No step stops, and no step changes what the host has loaded (10_state.md R20, R21; 20_memory.md R54, R59, R70;
60_exceptions.md R166). -/

namespace Sys2Proof.Machine

/-! ## Pseudocode that never stops the model -/

/-- The pseudocode completes or raises a runtime error of the block. -/
def NeverStuck {α : Type} (x : Except Stop α) : Prop := ∀ f, x ≠ .error (.stuck f)

section
variable {α β : Type} {x y : Except Stop α} {f : α → Except Stop β}

theorem neverStuck_ok (a : α) : NeverStuck (.ok a : Except Stop α) := nofun

theorem neverStuck_cause (c : Cause) : NeverStuck (.error (.cause c) : Except Stop α) := nofun

theorem neverStuck_of_raises {c : Cause} (h : ∀ e, x = .error e → e = .cause c) : NeverStuck x :=
  fun _ hx => nomatch h _ hx

theorem neverStuck_bind (hx : NeverStuck x) (hf : ∀ a, NeverStuck (f a)) : NeverStuck (x >>= f) := by
  intro fault h
  rcases bind_eq_error h with h | ⟨a, _, h⟩
  exacts [hx fault h, hf a fault h]

theorem neverStuck_ite {c : Prop} [Decidable c] (hx : NeverStuck x) (hy : NeverStuck y) :
    NeverStuck (if c then x else y) := by
  split
  exacts [hx, hy]

end

namespace NeverStuck

variable (s : State)

theorem push (v : Cell64) (g : Tag) : NeverStuck (s.push v g) := neverStuck_of_raises fun _ h => (State.push_error h).2

theorem pop : NeverStuck s.pop := neverStuck_of_raises fun _ h => (State.pop_error h).2

theorem memRead (a n : Nat) : NeverStuck (s.memRead a n) := neverStuck_of_raises fun _ h => (State.memRead_error h).2

theorem memWrite (a n : Nat) (v : Cell64) : NeverStuck (s.memWrite a n v) :=
  neverStuck_of_raises fun _ h => (State.memWrite_error h).2

theorem checkTarget (t : Int) : NeverStuck (s.checkTarget t) :=
  neverStuck_of_raises fun _ h => (State.checkTarget_error h).2

theorem frameSlot (a : Reg) : NeverStuck (s.frameSlot a) := neverStuck_of_raises fun _ h => (State.frameSlot_error h).2

theorem linkage : NeverStuck s.linkage := neverStuck_of_raises fun _ h => (State.linkage_error h).2

theorem checkSpan (span : Nat) : NeverStuck (checkSpan span) := neverStuck_ite (neverStuck_ok _) (neverStuck_cause _)

theorem typeOf (tid : Nat) : NeverStuck (s.typeOf tid) := by
  unfold State.typeOf
  split
  exacts [neverStuck_cause _, neverStuck_ok _]

theorem fieldOf (t : TypeMeta) (j : Nat) : NeverStuck (fieldOf t j) := by
  unfold Machine.fieldOf
  split
  exacts [neverStuck_cause _, neverStuck_ok _]

theorem checkPtr (a : Reg) : NeverStuck (s.checkPtr a) := neverStuck_ite (neverStuck_ok _) (neverStuck_cause _)

theorem fieldAt (a b : Reg) : NeverStuck (s.fieldAt a b) :=
  neverStuck_bind (checkPtr s a) fun _ => neverStuck_bind (typeOf s _) fun _ =>
    neverStuck_bind (fieldOf _ _) fun _ => neverStuck_ok _

theorem elementAt (a b : Reg) : NeverStuck (s.elementAt a b) :=
  neverStuck_bind (checkPtr s a) fun _ =>
    neverStuck_bind (neverStuck_ite (neverStuck_ok _) (neverStuck_cause _)) fun _ =>
    neverStuck_bind (memRead s _ _) fun _ => neverStuck_bind (memRead s _ _) fun _ =>
    neverStuck_bind (checkSpan _) fun _ =>
    neverStuck_bind (neverStuck_ite (neverStuck_ok _) (neverStuck_cause _)) fun _ => neverStuck_ok _

theorem conditional (target : Int) :
    NeverStuck (if s.flag then do return (s.setFlag false).jumpTo (← s.checkTarget target) else .ok s.advance) :=
  neverStuck_ite (neverStuck_bind (checkTarget s target) fun _ => neverStuck_ok _) (neverStuck_ok _)

variable {s}

/-- Under the allocator invariant a split finds its two records (20_memory.md R59). -/
theorem alloc (h : AllocatorInv s.cfg s.tree s.pool) (k : Nat) : NeverStuck (s.alloc k) := by
  refine neverStuck_of_raises (c := .outOfMemory) fun _ herr => ?_
  rcases State.alloc_error herr with ⟨_, he⟩ | ⟨hpool, _⟩
  exacts [he, absurd hpool (allocBlock_pool h)]

end NeverStuck

theorem settle_gives_next {s : State} {x : Except Stop State} (h : NeverStuck x) : ∃ t, s.settle x = .next t :=
  match x, h with
  | .ok t, _ => ⟨t, rfl⟩
  | .error (.cause c), _ => ⟨s.takeRuntimeError c, rfl⟩
  | .error (.stuck f), h => absurd rfl (h f)

/-! ## Every instruction and every step -/

/-- Under the allocator invariant every instruction answers a next state. -/
theorem exec_gives_next {s : State} (h : AllocatorInv s.cfg s.tree s.pool) (i : Instr) : ∃ t, exec i s = .next t := by
  cases i with
  | halt | out | move | constLow | constLowNegative | constMidLow | constMidHigh | constHigh | intAdd | intSubtract
  | intMultiply | uintAdd | uintSubtract | uintMultiply | floatAdd | floatSubtract | floatMultiply | floatDivide
  | doubleAdd | doubleSubtract | doubleMultiply | doubleDivide | bitAnd | bitOr | equal | notEqual | intLess
  | intLessEqual | uintLess | uintLessEqual | floatEqual | floatNotEqual | floatLess | floatLessEqual | doubleEqual
  | doubleNotEqual | doubleLess | doubleLessEqual | test => exact ⟨_, rfl⟩
  | intDivide | uintDivide => exact settle_gives_next (neverStuck_ite (neverStuck_cause _) (neverStuck_ok _))
  | push a => exact settle_gives_next (neverStuck_bind (.push s _ _) fun _ => neverStuck_ok _)
  | pop a => exact settle_gives_next (neverStuck_bind (.pop s) fun _ => neverStuck_ok _)
  | moveFromStackFrame a | moveToStackFrame a =>
    exact settle_gives_next (neverStuck_bind (.frameSlot s a) fun _ => neverStuck_ok _)
  | pushIp imm24 =>
    exact settle_gives_next (neverStuck_bind (.checkTarget s _) fun _ =>
      neverStuck_bind (.push s _ _) fun _ => neverStuck_ok _)
  | newStackFrame => exact settle_gives_next (neverStuck_bind (.push s _ _) fun _ => neverStuck_ok _)
  | ret =>
    exact settle_gives_next (neverStuck_bind (.linkage s) fun _ =>
      neverStuck_bind (.checkTarget s _) fun _ => neverStuck_ok _)
  | jump | jumpAbs => exact settle_gives_next (neverStuck_bind (.checkTarget s _) fun _ => neverStuck_ok _)
  | jumpIf | jumpAbsIf => exact settle_gives_next (.conditional s _)
  | alloc a b =>
    exact settle_gives_next (neverStuck_bind (.typeOf s _) fun _ => neverStuck_bind (.alloc h _) fun _ => neverStuck_ok _)
  | allocArray a b c =>
    exact settle_gives_next (neverStuck_bind (.checkSpan _) fun _ => neverStuck_bind (.alloc h _) fun _ =>
      neverStuck_bind (.memWrite _ _ _ _) fun _ => neverStuck_bind (.memWrite _ _ _ _) fun _ => neverStuck_ok _)
  | structLoad a b c =>
    exact settle_gives_next (neverStuck_bind (.fieldAt s a b) fun _ =>
      neverStuck_bind (.memRead s _ _) fun _ => neverStuck_ok _)
  | arrayLoad a b c =>
    exact settle_gives_next (neverStuck_bind (.elementAt s a b) fun _ =>
      neverStuck_bind (.memRead s _ _) fun _ => neverStuck_ok _)
  | structStore a b c =>
    exact settle_gives_next (neverStuck_bind (.fieldAt s a b) fun _ =>
      neverStuck_bind (.memWrite s _ _ _) fun _ => neverStuck_ok _)
  | arrayStore a b c =>
    exact settle_gives_next (neverStuck_bind (.elementAt s a b) fun _ =>
      neverStuck_bind (.memWrite s _ _ _) fun _ => neverStuck_ok _)

/-- Settles O16: a step does nothing, takes the error of the fetch or of the decoder, or executes an instruction. -/
theorem noStepStops : Obligations.NoStepStops := by
  intro s h
  unfold step
  split
  · split
    · exact ⟨_, rfl⟩
    · split
      · exact ⟨_, rfl⟩
      · exact exec_gives_next h.allocator _
  all_goals exact ⟨_, rfl⟩

/-! ## What the host has loaded -/

/-- `t` has the code memory, line table, metadata and parameters of `s`. -/
def SameLoaded (s t : State) : Prop :=
  t.code = s.code ∧ t.lineTable = s.lineTable ∧ t.metadata = s.metadata ∧ t.cfg = s.cfg

theorem SameLoaded.refl (s : State) : SameLoaded s s := ⟨rfl, rfl, rfl, rfl⟩

theorem DataWrites.sameLoaded {s t : State} (h : DataWrites s t) : SameLoaded s t := by
  induction h with
  | none => exact .refl s
  | setVal _ c v ih => exact ih
  | setReg _ c v kind ih => exact ih
  | copyReg _ c v hg ih => exact ih
  | push _ hg hu ih =>
    obtain ⟨_, rfl⟩ := State.push_ok hu
    exact ih
  | pop _ hu ih =>
    obtain ⟨_, rfl⟩ := State.pop_ok hu
    exact ih
  | truncate _ n ih => exact ih
  | writeSlot _ hk v hg ih => exact ih
  | memWrite _ hu ih =>
    obtain ⟨_, rfl⟩ := State.memWrite_ok hu
    exact ih
  | alloc _ hu ih =>
    obtain ⟨_, _, _, rfl⟩ := State.alloc_ok hu
    exact ih

theorem exec_sameLoaded {i : Instr} {s t : State} (h : exec i s = .next t) : SameLoaded s t := by
  rcases exec_next h with hc | ⟨c, rfl⟩
  · cases hc with
    | next hw => exact hw.sameLoaded
    | jump hw => exact hw.sameLoaded
    | bool | takenJump | out => exact ⟨rfl, rfl, rfl, rfl⟩
    | halt => simp [SameLoaded, State.afterHalt]
  · exact ⟨rfl, rfl, rfl, rfl⟩

theorem step_sameLoaded {s t : State} (h : step s = .next t) : SameLoaded s t := by
  rcases step_next h with ⟨_, rfl⟩ | ⟨_, ⟨c, rfl⟩ | ⟨i, _, hexec⟩⟩
  · exact .refl t
  · exact ⟨rfl, rfl, rfl, rfl⟩
  · exact exec_sameLoaded hexec

theorem hostRequest_not_running {r : HostRequest} {s t : State} (h : hostRequest r s = .next t) :
    s.status ≠ .running := by
  intro hrun
  unfold hostRequest at h
  rw [if_pos hrun] at h
  exact nomatch h

theorem hostRequest_code {r : HostRequest} {s t : State} (h : hostRequest r s = .next t) :
    t.code = s.code ∨ r = .loadCode t.code := by
  have hidle := hostRequest_not_running h
  unfold hostRequest at h
  rw [if_neg hidle] at h
  cases r with
  | loadCode words =>
    dsimp only at h
    split at h
    · obtain rfl := Host.Outcome.next.inj h
      exact .inr rfl
    · exact nomatch h
  | loadLineTable runs => exact .inl (Host.Outcome.next.inj h ▸ rfl)
  | loadMetadata types =>
    dsimp only at h
    split at h
    · exact .inl (Host.Outcome.next.inj h ▸ rfl)
    · exact nomatch h
  | start => exact .inl (Host.Outcome.next.inj h ▸ rfl)

/-- Settles O17: of all writes of the machine and of the host's port only a code load writes code memory. -/
theorem codeChangesOnlyByLoad : Obligations.CodeChangesOnlyByLoad :=
  ⟨fun _ _ h => step_sameLoaded h, fun _ _ _ h => ⟨hostRequest_not_running h, hostRequest_code h⟩⟩

end Sys2Proof.Machine
end

section
/-! PROOFS. The decoder and the encoder undo each other up to padding (30_encoding.md R73 to R82). The idea: packing
the fields of a word again gives the word with its padding cleared. Hence a word decodes to `i` exactly when its bits
outside the padding are those of `encode i`, and the encoder of unchecked operands answers the words whose fields hold
them. -/

namespace Sys2Proof

/-! ## Padding -/

/-- The number of low bits that a format gives to no field (30_encoding.md R75). -/
def Format.padding : Format → Nat
  | .n => 24
  | .a => 16
  | .ab => 8
  | .abc | .ai | .j => 0

theorem Format.getLsbD_mask (f : Format) : ∀ k < 32, f.mask.getLsbD k = decide (f.padding ≤ k) := by
  cases f <;> decide

/-- The opcode is padding of no format. -/
@[simp] theorem fieldOp_and_mask (w : Word) (f : Format) : fieldOp (w &&& f.mask) = fieldOp w := by
  have hpad : f.padding ≤ 24 := by cases f <;> decide
  ext k hk
  simp only [fieldOp, BitVec.getElem_extractLsb', BitVec.getLsbD_and]
  grind [f.getLsbD_mask (24 + k) (by omega)]

/-- The fields that the format reads from a word, packed again (30_encoding.md R73, R74). -/
def Format.repack : Format → Word → Word
  | .n, w => packN (fieldOp w)
  | .a, w => packA (fieldOp w) (fieldA w)
  | .ab, w => packAB (fieldOp w) (fieldA w) (fieldB w)
  | .abc, w => packABC (fieldOp w) (fieldA w) (fieldB w) (fieldC w)
  | .ai, w => packAI (fieldOp w) (fieldA w) (fieldImm16 w)
  | .j, w => packJ (fieldOp w) (fieldImm24 w)

theorem Format.repack_eq_and_mask (f : Format) (w : Word) : f.repack w = w &&& f.mask := by
  apply BitVec.eq_of_getLsbD_eq
  intro k hk
  rw [BitVec.getLsbD_and, f.getLsbD_mask k hk]
  cases f <;>
    simp only [repack, packN, packA, packAB, packABC, packAI, packJ, fieldOp, fieldA, fieldB, fieldC, fieldImm16,
      fieldImm24, BitVec.getLsbD_append, BitVec.getLsbD_extractLsb', padding] <;>
    grind

/-! ## Opcodes and formats -/

@[simp] theorem fieldOp_encode (i : Instr) : fieldOp (encode i) = i.opcode := by
  cases i <;> simp [encode, Instr.opcode]

theorem formatOf_opcode (i : Instr) : formatOf i.opcode.toNat = some i.format := by
  cases i <;> rfl

theorem format_eq_of_opcode_eq {i j : Instr} (h : i.opcode = j.opcode) : i.format = j.format :=
  Option.some.inj (by rw [← formatOf_opcode i, h, formatOf_opcode j])

theorem lt_of_formatOf {n : Nat} {f : Format} (h : formatOf n = some f) : n < 0x3A := by
  unfold formatOf at h
  split at h
  case h_59 => exact nomatch h
  all_goals omega

/-! ## What the decoder answers -/

/-- Each field of the packed word is the operand packed there, so the constructor of the opcode is rebuilt. -/
theorem decode_encode (i : Instr) : decode (encode i) = .instr i := by
  cases i <;> simp [encode, decode]

theorem encode_injective {i j : Instr} (h : encode i = encode j) : i = j :=
  Decoded.instr.inj (by rw [← decode_encode i, h, decode_encode j])

theorem decode_of_legal {w : Word} (hw : (fieldOp w).toNat < 0x3A) :
    ∃ i, decode w = .instr i ∧ encode i = w &&& i.format.mask := by
  unfold decode
  generalize hn : (fieldOp w).toNat = n at hw
  have hop : fieldOp w = BitVec.ofNat 8 n := by rw [← hn, BitVec.ofNat_toNat, BitVec.setWidth_eq]
  interval_cases n <;>
    exact ⟨_, rfl, by simp only [← Format.repack_eq_and_mask, Instr.format, Format.repack, encode, hop]⟩

theorem decode_of_illegal {w : Word} (hw : 0x3A ≤ (fieldOp w).toNat) : decode w = .illegal (fieldOp w) := by
  unfold decode
  split
  case h_59 => rfl
  all_goals omega

theorem encode_of_decode {w : Word} {i : Instr} (h : decode w = .instr i) : encode i = w &&& i.format.mask := by
  rcases Nat.lt_or_ge (fieldOp w).toNat 0x3A with hlegal | hillegal
  · obtain ⟨j, hj, hencode⟩ := decode_of_legal hlegal
    obtain rfl : j = i := Decoded.instr.inj (hj.symm.trans h)
    exact hencode
  · exact nomatch (decode_of_illegal hillegal).symm.trans h

theorem opcode_of_decode {w : Word} {i : Instr} (h : decode w = .instr i) : i.opcode = fieldOp w := by
  rw [← fieldOp_encode, encode_of_decode h, fieldOp_and_mask]

/-- The bits outside the padding, and no others, fix what a word decodes to (30_encoding.md R75). -/
theorem decode_eq_instr_iff {w : Word} {i : Instr} : decode w = .instr i ↔ w &&& i.format.mask = encode i := by
  refine ⟨fun h => (encode_of_decode h).symm, fun h => ?_⟩
  have hop : fieldOp w = i.opcode := by rw [← fieldOp_encode, ← h, fieldOp_and_mask]
  obtain ⟨j, hj, hencode⟩ := decode_of_legal (hop ▸ lt_of_formatOf (formatOf_opcode i))
  have hformat : j.format = i.format := format_eq_of_opcode_eq ((opcode_of_decode hj).trans hop)
  rw [hj, encode_injective (hencode.trans (hformat ▸ h))]

/-! ## What the encoder of unchecked operands answers -/

theorem packA_inj {op : BitVec 8} {a a' : Reg} : packA op a = packA op a' ↔ a = a' :=
  ⟨fun h => by simpa using congrArg fieldA h, congrArg _⟩

theorem packAB_inj {op : BitVec 8} {a a' b b' : Reg} : packAB op a b = packAB op a' b' ↔ a = a' ∧ b = b' :=
  ⟨fun h => ⟨by simpa using congrArg fieldA h, by simpa using congrArg fieldB h⟩, fun ⟨ha, hb⟩ => by rw [ha, hb]⟩

theorem packABC_inj {op : BitVec 8} {a a' b b' c c' : Reg} :
    packABC op a b c = packABC op a' b' c' ↔ a = a' ∧ b = b' ∧ c = c' :=
  ⟨fun h => ⟨by simpa using congrArg fieldA h, by simpa using congrArg fieldB h, by simpa using congrArg fieldC h⟩,
    fun ⟨ha, hb, hc⟩ => by rw [ha, hb, hc]⟩

theorem packAI_inj {op : BitVec 8} {a a' : Reg} {m m' : BitVec 16} :
    packAI op a m = packAI op a' m' ↔ a = a' ∧ m = m' :=
  ⟨fun h => ⟨by simpa using congrArg fieldA h, by simpa using congrArg fieldImm16 h⟩, fun ⟨ha, hm⟩ => by rw [ha, hm]⟩

theorem packJ_inj {op : BitVec 8} {m m' : BitVec 24} : packJ op m = packJ op m' ↔ m = m' :=
  ⟨fun h => by simpa using congrArg fieldImm24 h, congrArg _⟩

theorem regOperand_iff (v : Int) (r : Reg) : (r.toNat : Int) = v ↔ regOperandOk v ∧ BitVec.ofInt 8 v = r := by
  rw [← BitVec.toNat_inj, BitVec.toNat_ofInt]
  omega

theorem imm16Operand_iff (v : Int) (m : BitVec 16) :
    ((m.toNat : Int) = v ∨ v < 0 ∧ m.toInt = v) ↔ imm16OperandOk v ∧ BitVec.ofInt 16 v = m := by
  rw [← BitVec.toNat_inj, BitVec.toNat_ofInt, BitVec.toInt_eq_toNat_cond]
  omega

theorem off24Operand_iff (v : Int) (m : BitVec 24) : m.toInt = v ↔ off24OperandOk v ∧ BitVec.ofInt 24 v = m := by
  rw [← BitVec.toNat_inj, BitVec.toNat_ofInt, BitVec.toInt_eq_toNat_cond]
  omega

/-- A word carries the operands in full exactly when they fit and pack to its bits outside the padding. -/
theorem carriesOperands_iff {f : Format} {vs : List Int} {w : Word} : Machine.CarriesOperands f vs w ↔
    operandsOk f vs = true ∧ packOperands (fieldOp w) f vs = some (w &&& f.mask) := by
  rw [← f.repack_eq_and_mask]
  fun_cases operandsOk f vs
  case case7 => simp [Machine.CarriesOperands, *]
  all_goals
    simp only [Machine.CarriesOperands, packOperands, Format.repack, fieldA, fieldB, fieldC, fieldImm16, fieldImm24,
      Option.some_inj, packA_inj, packAB_inj, packABC_inj, packAI_inj, packJ_inj, regOperand_iff, imm16Operand_iff,
      off24Operand_iff, Bool.and_eq_true, decide_eq_true_eq, true_and] <;>
    tauto

theorem of_packOperands {op : BitVec 8} {f : Format} {vs : List Int} {w : Word} (h : packOperands op f vs = some w) :
    fieldOp w = op ∧ w &&& f.mask = w := by
  rw [← f.repack_eq_and_mask]
  unfold packOperands at h
  split at h <;> cases h <;> simp [Format.repack]

theorem encodeAsm_eq_some_iff {x : AsmInstr} {w : Word} : encodeAsm x = some w ↔
    ∃ f, formatOf x.opcode = some f ∧ operandsOk f x.operands = true ∧
      packOperands (BitVec.ofNat 8 x.opcode) f x.operands = some w := by
  unfold encodeAsm AsmInstr.wellFormed
  cases formatOf x.opcode <;> simp

end Sys2Proof

namespace Sys2Proof.Machine

/-! ## The error of an illegal opcode -/

/-- Taking a runtime error changes the status registers and the diagnostic stream alone (60_exceptions.md R167). -/
theorem sameBut_takeRuntimeError (s : State) (c : Cause) : SameBut s (s.takeRuntimeError c) [] [.report] where
  loaded := ⟨rfl, rfl, rfl, rfl⟩
  registers _ _ := ⟨rfl, rfl⟩
  flag _ := rfl
  stack _ := ⟨rfl, rfl⟩
  heap _ _ := rfl
  allocator _ := ⟨rfl, rfl⟩
  out _ := rfl
  report hreport := absurd (List.mem_singleton.mpr rfl) hreport

theorem step_of_illegal {s : State} {w : Word} {op : BitVec 8} (hrun : s.status = .running)
    (hfetch : s.fetch = some w) (hw : decode w = .illegal op) :
    step s = .next (s.takeRuntimeError .illegalOpcode) := by
  simp only [step, hrun, hfetch, hw]

/-! ## The statements -/

/-- Settles O1: every field of a packed word is the operand packed there. -/
theorem decodeOfEncode : Obligations.DecodeOfEncode := decode_encode

/-- Settles O2: what a word decodes to depends on the bits outside the padding alone. -/
theorem paddingIgnored : Obligations.PaddingIgnored :=
  ⟨⟨rfl, rfl, rfl, rfl, rfl, rfl⟩, fun _ _ h =>
    ⟨fun _ hagree => decode_eq_instr_iff.mpr (hagree.trans (decode_eq_instr_iff.mp h)), encode_of_decode h⟩⟩

/-- Settles O3: the decoder's two answers, and the error entry that a step takes on the second. -/
theorem illegalOpcodesRefused : Obligations.IllegalOpcodesRefused := by
  refine ⟨fun w hlegal => ?_, fun w hillegal => ⟨decode_of_illegal hillegal, fun s hrun hfetch => ?_⟩⟩
  · obtain ⟨i, hi, -⟩ := decode_of_legal hlegal
    exact ⟨i, hi, opcode_of_decode hi⟩
  · exact ⟨_, step_of_illegal hrun hfetch (decode_of_illegal hillegal), rfl, rfl, rfl, sameBut_takeRuntimeError s _⟩

/-- Settles O4: operands that fit and pack to a word are those that its fields carry. -/
theorem encoderContract : Obligations.EncoderContract := by
  refine ⟨formatOf_opcode, fun x w => encodeAsm_eq_some_iff.trans (exists_congr fun f => and_congr_right fun hf => ?_)⟩
  have hlt := lt_of_formatOf hf
  have hop : fieldOp w = BitVec.ofNat 8 x.opcode ↔ (w.extractLsb' 24 8).toNat = x.opcode := by
    rw [fieldOp, ← BitVec.toNat_inj, BitVec.toNat_ofNat, Nat.mod_eq_of_lt (by omega)]
  rw [← hop]
  constructor
  · rintro ⟨hok, hpack⟩
    obtain ⟨hfield, hmask⟩ := of_packOperands hpack
    exact ⟨Nat.le_of_lt_succ hlt, hfield, hmask, carriesOperands_iff.mpr ⟨hok, by rw [hfield, hpack, hmask]⟩⟩
  · rintro ⟨-, hfield, hmask, hcarries⟩
    obtain ⟨hok, hpack⟩ := carriesOperands_iff.mp hcarries
    exact ⟨hok, by rw [← hfield, hpack, hmask]⟩

/-- Settles O5: each legal sample is the encoder's word of its instruction. -/
theorem sampleWordsDecode : Obligations.SampleWordsDecode :=
  ⟨decode_encode .halt, decode_encode (.constLow 0 5), decode_encode (.constLowNegative 5 0xFFFB),
    decode_encode (.pop 1), decode_encode (.moveFromStackFrame 10 11), decode_encode (.jump 0xFFFFFF),
    decode_encode (.allocArray 0 1 2), decode_encode (.intAdd 0 1 2), decode_encode (.test 0 1),
    decode_encode (.out 2), decode_of_illegal (by decide)⟩

/-- Settles O6: testing bit 23 and or-ing in 0xFF000000 is sign extension. -/
theorem jumpOffsetIsTwosComplement : Obligations.JumpOffsetIsTwosComplement := by
  intro imm24
  have hoffset := offset24_eq imm24
  refine ⟨rfl, hoffset, ?_, ?_, fun s => ?_⟩
  · exact hoffset ▸ imm24.le_toInt
  · exact hoffset ▸ imm24.toInt_le
  · rw [State.relTarget, hoffset]

end Sys2Proof.Machine
end

section
/-! PROOFS. A typed write of one register, said once for all instructions that do no more; MOVE and the constants
(10_state.md R26, R27; 40_data_movement.md R87 to R92). -/

namespace Sys2Proof.Machine

/-! ## The write of one register -/

/-- The frame of SetReg and of CopyReg, which both rewrite a value and bits 4:0 of its tag (10_state.md R26, R27). -/
theorem sameBut_rewriteRegister (s : State) (c : Reg) (v : Cell64) (low : BitVec 5) :
    SameBut s ((s.setVal c v).setTagBits c low).advance [c] [] where
  loaded := ⟨rfl, rfl, rfl, rfl⟩
  registers r hr := by
    have hne : r ≠ c := fun h => hr (List.mem_singleton.mpr h)
    simp [hne]
  flag _ := rfl
  stack _ := ⟨rfl, rfl⟩
  heap _ _ := rfl
  allocator _ := ⟨rfl, rfl⟩
  out _ := rfl
  report _ := ⟨rfl, rfl, rfl, rfl, rfl⟩

/-- What SetReg does as the last effect of an instruction (10_state.md R26). -/
theorem writesReg_setReg (s : State) (c : Reg) (v : Cell64) (kind : TagKind) :
    WritesReg s (s.setReg c v kind).advance c v kind where
  value := by simp
  tag := by simp [TaggedAs]
  next := rfl
  frame := sameBut_rewriteRegister s c v kind.code

/-! ## The statements -/

/-- Settles O23: CopyReg takes bits 4:0 of the tag from A and keeps bits 7:5 of B, also when A is B. -/
theorem moveCopies : Obligations.MoveCopies := by
  intro a b s
  refine ⟨⟨rfl, rfl⟩, _, rfl, ?value, ?kind, ?reserved, rfl, sameBut_rewriteRegister s b _ _⟩
  case value => simp
  case kind => simp
  case reserved => simp

/-- Settles O24: each of the four is SetReg of the register's value with one quarter replaced. -/
theorem constQuarterWrites : Obligations.ConstQuarterWrites := fun a imm16 s =>
  ⟨⟨⟨rfl, rfl⟩, _, rfl, writesReg_setReg s a (withQuarter (s.reg a) .low imm16) .raw⟩,
    ⟨⟨rfl, rfl⟩, _, rfl, writesReg_setReg s a (withQuarter (s.reg a) .midLow imm16) .raw⟩,
    ⟨⟨rfl, rfl⟩, _, rfl, writesReg_setReg s a (withQuarter (s.reg a) .midHigh imm16) .raw⟩,
    ⟨⟨rfl, rfl⟩, _, rfl, writesReg_setReg s a (withQuarter (s.reg a) .high imm16) .raw⟩⟩

/-- Settles O25: sign extension is, by its definition, the word of the signed value. -/
theorem constLowNegativeExtends : Obligations.ConstLowNegativeExtends := fun a imm16 s =>
  ⟨⟨rfl, rfl⟩, _, rfl, writesReg_setReg s a (imm16.signExtend 64) .signed⟩

end Sys2Proof.Machine
end

section
/-! PROOFS. Access to fields and array elements (20_memory.md R46, R55; 41_heap.md R93 to R95, R98 to R101). The idea:
every access locates its bytes by checks in order and then touches the slab, so its first error is that of locating, or
else that of the bytes located. -/

namespace Sys2Proof.Machine

/-! ## One line of pseudocode -/

section
variable {α : Type} {s : State} {x : Except Stop α} {f : α → Except Stop State}

theorem State.settle_bind_ok {v : α} (h : x = .ok v) : s.settle (x >>= f) = s.settle (f v) := by rw [h, ok_bind]

theorem State.settle_bind_cause {c : Cause} (h : x = .error (.cause c)) :
    s.settle (x >>= f) = .next (s.takeRuntimeError c) := by rw [h, error_bind, State.settle_cause]

end

section
variable {s : State} {a : Reg}

theorem State.checkPtr_pointer (h : (s.tag a).getLsbD 0 = true) : s.checkPtr a = .ok () := if_pos h

theorem State.checkPtr_nonpointer (h : (s.tag a).getLsbD 0 = false) : s.checkPtr a = .error (.cause .notAPointer) :=
  if_neg (ne_true_of_eq_false h)

theorem State.checkArray_array (h : (s.tag a).getLsbD 4 = true) : s.checkArray a = .ok () := if_pos h

theorem State.checkArray_nonarray (h : (s.tag a).getLsbD 4 = false) : s.checkArray a = .error (.cause .notAnArray) :=
  if_neg (ne_true_of_eq_false h)

theorem State.typeOf_known {tid : Nat} {ty : TypeMeta} (h : s.metadata[tid]? = some ty) : s.typeOf tid = .ok ty := by
  rw [State.typeOf, h]

theorem State.typeOf_unknown {tid : Nat} (h : s.metadata[tid]? = none) :
    s.typeOf tid = .error (.cause .unknownType) := by rw [State.typeOf, h]

theorem fieldOf_known {ty : TypeMeta} {j : Nat} {field : FieldMeta} (h : ty.fields[j]? = some field) :
    fieldOf ty j = .ok field := by rw [fieldOf, h]

theorem fieldOf_unknown {ty : TypeMeta} {j : Nat} (h : ty.fields[j]? = none) :
    fieldOf ty j = .error (.cause .unknownField) := by rw [fieldOf, h]

theorem spanOk_iff_mem {span : Nat} : spanOk span ↔ span ∈ [1, 2, 4, 8] := by simp

theorem spanOk.range {span : Nat} (h : spanOk span) : 0 < span ∧ span ≤ 8 := by
  rcases h with rfl | rfl | rfl | rfl <;> decide

theorem checkSpan_legal {span : Nat} (h : span ∈ [1, 2, 4, 8]) : checkSpan span = .ok () :=
  if_pos (spanOk_iff_mem.mpr h)

theorem checkSpan_illegal {span : Nat} (h : span ∉ [1, 2, 4, 8]) :
    checkSpan span = .error (.cause .invalidArraySpan) := if_neg (mt spanOk_iff_mem.mp h)

theorem checkIndex_below {i count : Nat} (h : i < count) : checkIndex i count = .ok () := if_pos h

theorem checkIndex_beyond {i count : Nat} (h : count ≤ i) :
    checkIndex i count = .error (.cause .arrayIndexOutOfBounds) := if_neg h.not_gt

end

/-- Going to the next instruction is inside every frame. -/
theorem SameBut.advance {s t : State} {regs : List Reg} {parts : List Part} (h : SameBut s t regs parts) :
    SameBut s t.advance regs parts := { h with }

/-! ## Kinds of field -/

/-- The table of R55, which the model has as four functions of the kind. -/
theorem fieldKinds : FieldKinds := by
  unfold FieldKinds PrimKind.Row
  decide

theorem PrimKind.size_range (kind : PrimKind) : 0 < kind.size ∧ kind.size ≤ 8 := by cases kind <;> decide

/-! ## What a load reads (20_memory.md R46, R55) -/

theorem Memory.testBit_readLE_inside (m : Memory) (a : Nat) {n i j : Nat} (hj : j < n) (hi : i < 8) :
    (m.readLE a n).testBit (8 * j + i) = (m.byte (a + j)).getLsbD i := by
  induction n generalizing a j with
  | zero => omega
  | succ n ih =>
    rw [Memory.readLE, Nat.add_comm, show 256 = 2 ^ 8 from rfl, Nat.testBit_two_pow_mul_add _ (m.byte a).isLt]
    cases j with
    | zero => rw [if_pos (by omega), Nat.mul_zero, Nat.zero_add, Nat.add_zero, BitVec.getLsbD]
    | succ j =>
      rw [if_neg (by omega), show 8 * (j + 1) + i - 8 = 8 * j + i by omega, ih (a + 1) (by omega),
        show a + (j + 1) = a + 1 + j by omega]

theorem Memory.testBit_readLE_outside (m : Memory) (a : Nat) {n i : Nat} (hi : 8 * n ≤ i) :
    (m.readLE a n).testBit i = false :=
  Nat.testBit_lt_two_pow ((m.readLE_lt n a).trans_le
    (by rw [show 256 = 2 ^ 8 from rfl, ← Nat.pow_mul]; exact Nat.pow_le_pow_right (by decide) hi))

/-- The value `r` of n bytes as loads extend it: by its own top bit when `sign`, else by zeros (20_memory.md R55). -/
def extendBytes (n : Nat) (sign : Bool) (r : Nat) : Cell64 :=
  if sign then (BitVec.ofNat (8 * n) r).signExtend 64 else BitVec.ofNat 64 r

/-- STRUCT_LOAD extends as the kind says (41_heap.md R98). -/
theorem extendBytes_kind (kind : PrimKind) (r : Nat) : extendBytes kind.size kind.signExtends r = kind.extend r := rfl

/-- ARRAY_LOAD extends by zeros (41_heap.md R100). -/
theorem extendBytes_false (n r : Nat) : extendBytes n false r = BitVec.ofNat 64 r := rfl

theorem getLsbD_extendBytes {n i : Nat} (sign : Bool) (r : Nat) (hn : 0 < n) (hi : i < 64) :
    (extendBytes n sign r).getLsbD i = if i < 8 * n ∨ sign = false then r.testBit i else r.testBit (8 * n - 1) := by
  cases sign with
  | false =>
    rw [extendBytes_false, BitVec.getLsbD_ofNat]
    simp [hi]
  | true =>
    simp only [extendBytes, if_true, BitVec.getLsbD_signExtend, BitVec.msb_eq_getLsbD_last, BitVec.getLsbD_ofNat]
    split <;> simp_all

/-- What a load puts together from the bytes it has read. -/
theorem loadsBytes_extendBytes (s : State) (a : Nat) {n : Nat} (hn : 0 < n ∧ n ≤ 8) (sign : Bool) :
    LoadsBytes s a n sign (extendBytes n sign (s.slab.readLE a n)) := by
  obtain ⟨hpos, hle⟩ := hn
  refine ⟨fun j hj => BitVec.eq_of_getLsbD_eq fun i hi => ?bytes, fun i hi hi64 => ?extension⟩
  case bytes =>
    rw [BitVec.getLsbD_extractLsb', getLsbD_extendBytes sign _ hpos (by omega), if_pos (.inl (by omega)),
      s.slab.testBit_readLE_inside a hj hi]
    simp [hi]
  case extension =>
    rw [getLsbD_extendBytes sign _ hpos hi64, getLsbD_extendBytes sign _ hpos (by omega)]
    cases sign with
    | false => simp [s.slab.testBit_readLE_outside a hi]
    | true => simp [hi.not_gt, hpos]

/-! ## The first error of an access -/

/-- The first error of an access whose bytes are located by `x`: that of locating, else `ADDRESS_OUT_OF_RANGE` when the
bytes located are not in the slab. -/
def accessError {α : Type} (cfg : Config) (size : α → Nat) (x : Except Stop (Nat × α)) : Option Cause :=
  match x with
  | .error (.cause c) => some c
  | .error (.stuck _) => none
  | .ok (addr, k) => if inSlab cfg addr (size k) then none else some .addressOutOfRange

section
variable {α : Type} {s : State} {size : α → Nat} {x : Except Stop (Nat × α)}

theorem settle_access_error {f : Nat × α → Except Stop State} {e : Cause} (h : accessError s.cfg size x = some e)
    (hf : ∀ addr k, ¬ inSlab s.cfg addr (size k) → f (addr, k) = .error (.cause .addressOutOfRange)) :
    s.settle (x >>= f) = .next (s.takeRuntimeError e) := by
  match x, h with
  | .error (.cause c), h => rw [← Option.some.inj h, error_bind, State.settle_cause]
  | .ok (addr, k), h =>
    unfold accessError at h
    dsimp only at h
    split at h
    · exact nomatch h
    · next hout => rw [← Option.some.inj h, ok_bind, hf addr k hout, State.settle_cause]

theorem located_of_no_accessError (hx : NeverStuck x) (h : accessError s.cfg size x = none) :
    ∃ addr k, x = .ok (addr, k) ∧ inSlab s.cfg addr (size k) := by
  match x, h with
  | .error (.stuck f), _ => exact absurd rfl (hx f)
  | .ok (addr, k), h =>
    unfold accessError at h
    dsimp only at h
    split at h
    · next hin => exact ⟨addr, k, rfl, hin⟩
    · exact nomatch h

end

/-- The errors of R98 in order are those of locating the field and then of its bytes. -/
theorem State.fieldError_eq (s : State) (a b : Reg) :
    s.fieldError a b = accessError s.cfg PrimKind.size (s.fieldAt a b) := by
  unfold State.fieldError State.fieldAt selType selField
  split
  · next hptr => rw [State.checkPtr_nonpointer hptr]; rfl
  · next hptr =>
    rw [State.checkPtr_pointer (Bool.of_not_eq_false hptr), ok_bind]
    split
    · next hty => rw [State.typeOf_unknown hty]; rfl
    · next ty hty =>
      rw [State.typeOf_known hty, ok_bind]
      split
      · next hfield => rw [fieldOf_unknown hfield]; rfl
      · next field hfield => rw [fieldOf_known hfield]; rfl

/-- The errors of R100 in order are those of locating the element and then of its bytes. -/
theorem State.arrayError_eq (s : State) (a b : Reg) :
    s.arrayError a b = accessError s.cfg id (s.elementAt a b) := by
  unfold State.arrayError State.elementAt State.asUnsigned
  split
  · next hptr => rw [State.checkPtr_nonpointer hptr]; rfl
  · next hptr =>
    rw [State.checkPtr_pointer (Bool.of_not_eq_false hptr), ok_bind]
    split
    · next harray => rw [State.checkArray_nonarray harray]; rfl
    · next harray =>
      rw [State.checkArray_array (Bool.of_not_eq_false harray), ok_bind]
      split
      · next hheader =>
        by_cases hcount : inSlab s.cfg (s.reg a).toNat 8
        · rw [State.memRead_inSlab hcount, ok_bind, State.memRead_outside fun hspan => hheader ⟨hcount, hspan⟩]
          rfl
        · rw [State.memRead_outside hcount]; rfl
      · next hheader =>
        obtain ⟨hcount, hspan⟩ := not_not.mp hheader
        rw [State.memRead_inSlab hcount, ok_bind, State.memRead_inSlab hspan, ok_bind,
          ← State.arraySpan, ← State.arrayCount]
        split
        · next hlegal => rw [checkSpan_illegal hlegal]; rfl
        · next hlegal =>
          rw [checkSpan_legal (not_not.mp hlegal), ok_bind]
          split
          · next hindex => rw [checkIndex_beyond hindex]; rfl
          · next hindex =>
            rw [checkIndex_below (Nat.not_le.mp hindex), ok_bind]
            exact ite_not ..

/-- A field access without error finds the field that the tables name, in the slab. -/
theorem State.fieldAt_of_no_error {s : State} {a b : Reg} {ty : TypeMeta} {field : FieldMeta}
    (h : s.fieldError a b = none) (hty : s.metadata[selType (s.reg b)]? = some ty)
    (hfield : ty.fields[selField (s.reg b)]? = some field) :
    s.fieldAt a b = .ok ((s.reg a).toNat + field.offset.toNat, field.kind) ∧
      inSlab s.cfg ((s.reg a).toNat + field.offset.toNat) field.kind.size := by
  rw [State.fieldError_eq] at h
  obtain ⟨addr, kind, hat, hin⟩ := located_of_no_accessError (.fieldAt s a b) h
  obtain ⟨_, ty', field', hty', hfield', rfl, rfl⟩ := State.fieldAt_ok hat
  obtain rfl := Option.some.inj (hty'.symm.trans hty)
  obtain rfl := Option.some.inj (hfield'.symm.trans hfield)
  exact ⟨hat, hin⟩

/-- An element access without error finds the element of the header's span, in the slab. -/
theorem State.elementAt_of_no_error {s : State} {a b : Reg} (h : s.arrayError a b = none) :
    s.elementAt a b = .ok (s.elementAddr a b, s.arraySpan a) ∧
      inSlab s.cfg (s.elementAddr a b) (s.arraySpan a) ∧ 0 < s.arraySpan a ∧ s.arraySpan a ≤ 8 := by
  rw [State.arrayError_eq] at h
  obtain ⟨addr, span, hat, hin⟩ := located_of_no_accessError (.elementAt s a b) h
  obtain ⟨_, _, _, _, hspan, hlegal, _, haddr⟩ := State.elementAt_ok hat
  replace hspan : span = s.arraySpan a := hspan
  replace haddr : addr = s.elementAddr a b := by rw [haddr, hspan, State.asUnsigned, State.asUnsigned, State.elementAddr]
  rw [hspan, haddr] at hat hin
  exact ⟨hat, hin, (hspan ▸ hlegal).range⟩

/-! ## The two accesses -/

section
variable {s : State} {addr n : Nat}

/-- A load whose bytes are in the slab. -/
theorem settle_load (hin : inSlab s.cfg addr n) (hn : 0 < n ∧ n ≤ 8) (c : Reg) (sign : Bool) (kind : TagKind) :
    ∃ t v, s.settle (do return (s.setReg c (extendBytes n sign (← s.memRead addr n)) kind).advance) = .next t ∧
      LoadsBytes s addr n sign v ∧ WritesReg s t c v kind :=
  ⟨_, _, State.settle_bind_ok (State.memRead_inSlab hin), loadsBytes_extendBytes s addr hn sign,
    writesReg_setReg s c _ kind⟩

/-- A store whose bytes are in the slab. -/
theorem settle_store (hin : inSlab s.cfg addr n) (v : Cell64) :
    ∃ t, s.settle (do return (← s.memWrite addr n v).advance) = .next t ∧
      StoresBytes s t addr n v ∧ t.ip = s.ip + 1 ∧ SameBut s t [] [.heap] :=
  ⟨_, State.settle_bind_ok (State.memWrite_inSlab v hin), storesBytes_writeLE s addr n v, rfl, (sameBut_slab s _).advance⟩

end

/-! ## The statements -/

/-- Settles O55: a field access that raises nothing has located the field in the slab, and the rest is a load. -/
theorem structLoadReadsField : Obligations.StructLoadReadsField := by
  refine ⟨fieldKinds, fun a b c s => ⟨⟨rfl, rfl⟩, fun e he => ?error, fun ty field hnone hty hfield => ?load⟩⟩
  case error =>
    refine settle_access_error (s.fieldError_eq a b ▸ he) fun addr kind hout => ?_
    simp only [State.memRead_outside hout, error_bind]
  case load =>
    obtain ⟨hat, hin⟩ := State.fieldAt_of_no_error hnone hty hfield
    obtain ⟨t, v, hsettle, hloads⟩ :=
      settle_load hin field.kind.size_range c field.kind.signExtends field.kind.tagKind
    simp only [extendBytes_kind] at hsettle
    exact ⟨t, v, (State.settle_bind_ok hat).trans hsettle, hloads⟩

/-- Settles O56: as STRUCT_LOAD up to the access, which is a store. -/
theorem structStoreWritesField : Obligations.StructStoreWritesField := by
  refine ⟨fieldKinds, fun a b c s => ⟨⟨rfl, rfl⟩, fun e he => ?error, fun ty field hnone hty hfield => ?store⟩⟩
  case error =>
    refine settle_access_error (s.fieldError_eq a b ▸ he) fun addr kind hout => ?_
    simp only [State.memWrite_outside _ hout, error_bind]
  case store =>
    obtain ⟨hat, hin⟩ := State.fieldAt_of_no_error hnone hty hfield
    obtain ⟨t, hsettle, hstores⟩ := settle_store hin (s.reg c)
    exact ⟨t, (State.settle_bind_ok hat).trans hsettle, hstores⟩

/-- Settles O57: an element access that raises nothing has located the element in the slab, and the rest is a load. -/
theorem arrayLoadReadsElement : Obligations.ArrayLoadReadsElement := by
  refine fun a b c s => ⟨⟨rfl, rfl⟩, fun e he => ?error, fun hnone => ?load⟩
  case error =>
    refine settle_access_error (s.arrayError_eq a b ▸ he) fun addr span hout => ?_
    simp only [State.memRead_outside (n := span) hout, error_bind]
  case load =>
    obtain ⟨hat, hin, hspan⟩ := State.elementAt_of_no_error hnone
    obtain ⟨t, v, hsettle, hloads⟩ := settle_load hin hspan c false .raw
    simp only [extendBytes_false] at hsettle
    exact ⟨t, v, (State.settle_bind_ok hat).trans hsettle, hloads⟩

/-- Settles O58: as ARRAY_LOAD up to the access, which is a store. -/
theorem arrayStoreWritesElement : Obligations.ArrayStoreWritesElement := by
  refine fun a b c s => ⟨⟨rfl, rfl⟩, fun e he => ?error, fun hnone => ?store⟩
  case error =>
    refine settle_access_error (s.arrayError_eq a b ▸ he) fun addr span hout => ?_
    simp only [State.memWrite_outside (n := span) _ hout, error_bind]
  case store =>
    obtain ⟨hat, hin, _⟩ := State.elementAt_of_no_error hnone
    obtain ⟨t, hsettle, hstores⟩ := settle_store hin (s.reg c)
    exact ⟨t, (State.settle_bind_ok hat).trans hsettle, hstores⟩

end Sys2Proof.Machine
end

section
/-! PROOFS. Allocation of a struct and of an array (41_heap.md R95 to R97). The idea: the block answered is large enough
for what it was sized for and lies in the slab, so that the header's stores cannot fault. -/

namespace Sys2Proof.Machine

/-! ## The block -/

theorem State.alloc_found {s : State} {k r pool : Nat} {tree : Node}
    (h : allocBlock s.cfg s.tree s.pool k = .found r tree pool) :
    s.alloc k = .ok (r, { s with tree := tree, pool := pool }) := by rw [State.alloc, h]

theorem State.alloc_oom {s : State} {k : Nat} (h : allocBlock s.cfg s.tree s.pool k = .oom) :
    s.alloc k = .error (.cause .outOfMemory) := by rw [State.alloc, h]

theorem expFor_eq (cfg : Config) (n : Nat) : expFor cfg n = max cfg.minExp (Nat.clog 2 n) := by
  rw [expFor, clog2_eq]

theorem le_two_pow_expFor (cfg : Config) (n : Nat) : n ≤ 2 ^ expFor cfg n := by
  rw [expFor_eq]
  exact (Nat.le_pow_clog (by decide) n).trans (Nat.pow_le_pow_right (by decide) (Nat.le_max_right ..))

/-- The block that `Alloc` answers lies in the slab (20_memory.md R58, R61). -/
theorem allocBlock_found_inSlab {cfg : Config} {tree tree' : Node} {pool pool' k r n : Nat}
    (h : AllocatorInv cfg tree pool) (hf : allocBlock cfg tree pool k = .found r tree' pool') (hn : n ≤ 2 ^ k) :
    inSlab cfg r n := by
  obtain ⟨_, _, hsearch, _, _⟩ := allocBlock_found hf
  obtain ⟨x, hx, hblock⟩ := (Node.finds_of_search hsearch).blockIn h.shaped
  have hfits : n ≤ 2 ^ x := hn.trans (Nat.pow_le_pow_right (by decide) ((Nat.le_max_left ..).trans hx))
  exact ⟨hblock.lower, (Nat.add_le_add_left hfits r).trans hblock.upper⟩

/-! ## Frames of an allocation -/

/-- A new tree and pool are a change of the allocator alone. -/
theorem sameBut_allocator (s : State) (tree : Node) (pool : Nat) :
    SameBut s { s with tree := tree, pool := pool } [] [.allocator] where
  loaded := ⟨rfl, rfl, rfl, rfl⟩
  registers _ _ := ⟨rfl, rfl⟩
  flag _ := rfl
  stack _ := ⟨rfl, rfl⟩
  heap _ _ := rfl
  allocator hallocator := absurd (List.mem_singleton.mpr rfl) hallocator
  out _ := rfl
  report _ := ⟨rfl, rfl, rfl, rfl, rfl⟩

/-- A register write after a change of other parts: the tag and the frame, seen from the state before both. -/
theorem WritesReg.after {s u t : State} {c : Reg} {v : Cell64} {kind : TagKind} {parts : List Part}
    (hw : WritesReg u t c v kind) (h : SameBut s u [] parts) : TaggedAs s t c kind ∧ SameBut s t [c] parts := by
  obtain ⟨hlow, hreserved⟩ := hw.tag
  have htag : u.tag c = s.tag c := (h.registers c List.not_mem_nil).2
  exact ⟨⟨hlow, htag ▸ hreserved⟩,
    (h.mono (List.nil_subset _) (List.Subset.refl _)).trans (hw.frame.mono (List.Subset.refl _) (List.nil_subset _))⟩

/-! ## The header -/

/-- The two header stores of ALLOC_ARRAY, in a block with room for them (41_heap.md R95, R97). -/
theorem memWrite_header {s : State} {addr : Nat} (hin : inSlab s.cfg addr 16) (count span : Cell64) :
    ∃ u t, s.memWrite addr 8 count = .ok u ∧ u.memWrite (addr + 8) 8 span = .ok t ∧
      (∀ j, j < 8 → t.slab.byte (addr + j) = count.extractLsb' (8 * j) 8) ∧
      (∀ j, j < 8 → t.slab.byte (addr + 8 + j) = span.extractLsb' (8 * j) 8) ∧
      (∀ x, x < addr ∨ addr + 16 ≤ x → t.slab.byte x = s.slab.byte x) ∧ t.ip = s.ip ∧ SameBut s t [] [.heap] := by
  obtain ⟨hlower, hupper⟩ := hin
  have hfirst : inSlab s.cfg addr 8 := ⟨hlower, by omega⟩
  have hsecond : inSlab s.cfg (addr + 8) 8 := ⟨by omega, by omega⟩
  obtain ⟨hcount, hkeepFirst⟩ := storesBytes_writeLE s addr 8 count
  obtain ⟨hspan, hkeepSecond⟩ :=
    storesBytes_writeLE { s with slab := s.slab.writeLE addr count.toNat 8 } (addr + 8) 8 span
  exact ⟨_, _, State.memWrite_inSlab count hfirst, State.memWrite_inSlab span hsecond,
    fun j hj => (hkeepSecond (addr + j) (by omega)).trans (hcount j hj), hspan,
    fun x hx => (hkeepSecond x (by omega)).trans (hkeepFirst x (by omega)), rfl,
    (sameBut_slab s _).trans (sameBut_slab _ _)⟩

/-! ## The statements -/

/-- Settles O53: the type is looked up, then the block, and the register is written over the new allocator. -/
theorem allocGivesBlock : Obligations.AllocGivesBlock := by
  refine ⟨rfl, fun fields last => ?size, fieldKinds, fun a b s => ⟨⟨rfl, rfl⟩, fun hunknown => ?unknown,
    fun ty k hty hk => ⟨fun hoom => ?full, fun r tree pool hf => ?found⟩⟩⟩
  case size => simp [TypeMeta.size]
  case unknown => exact State.settle_bind_cause (State.typeOf_unknown (List.getElem?_eq_none hunknown))
  all_goals rw [← expFor_eq] at hk; subst hk
  case full =>
    exact (State.settle_bind_ok (State.typeOf_known hty)).trans (State.settle_bind_cause (State.alloc_oom hoom))
  case found =>
    have hwrites := writesReg_setReg { s with tree := tree, pool := pool } b (BitVec.ofNat 64 r) .ptr
    obtain ⟨htagged, hframe⟩ := hwrites.after (sameBut_allocator s tree pool)
    exact ⟨_, (State.settle_bind_ok (State.typeOf_known hty)).trans (State.settle_bind_ok (State.alloc_found hf)),
      hwrites.value, htagged, rfl, rfl, rfl, hframe⟩

/-- Settles O54: the block has room for the header, so that neither of its two stores can fault. -/
theorem allocArrayWritesHeader : Obligations.AllocArrayWritesHeader := by
  refine fun a b c s => ⟨⟨rfl, rfl⟩, fun hspan => State.settle_bind_cause (checkSpan_illegal hspan),
    fun k hspan hk => ⟨fun hoom => ?full, fun r tree pool hinv hf => ?found⟩⟩
  all_goals rw [← expFor_eq] at hk; subst hk
  case full =>
    exact (State.settle_bind_ok (checkSpan_legal hspan)).trans (State.settle_bind_cause (State.alloc_oom hoom))
  case found =>
    have hroom : inSlab s.cfg r 16 :=
      allocBlock_found_inSlab hinv hf ((Nat.le_add_right 16 _).trans (le_two_pow_expFor ..))
    obtain ⟨s2, s3, hcount, hspanStore, hcountBytes, hspanBytes, hother, hip, hheap⟩ :=
      memWrite_header (s := { s with tree := tree, pool := pool }) hroom (s.reg a) (s.reg b)
    obtain ⟨htree, hpool⟩ := hheap.allocator (by decide)
    have hwrites := writesReg_setReg s3 c (BitVec.ofNat 64 r) .arrayPtr
    obtain ⟨htagged, hframe⟩ := hwrites.after (parts := [.heap, .allocator])
      (((sameBut_allocator s tree pool).mono (by simp) (by simp)).trans (hheap.mono (by simp) (by simp)))
    refine ⟨(s3.setReg c (BitVec.ofNat 64 r) .arrayPtr).advance, ?run, hcountBytes, hspanBytes, hother, hwrites.value,
      htagged, htree, hpool, hwrites.next.trans (congrArg (· + 1) hip), hframe⟩
    case run =>
      exact (State.settle_bind_ok (checkSpan_legal hspan)).trans <|
        (State.settle_bind_ok (State.alloc_found hf)).trans <|
        (State.settle_bind_ok hcount).trans <| State.settle_bind_ok hspanStore

end Sys2Proof.Machine
end

section
/-! PROOFS. The arithmetic and bitwise instructions (42_arithmetic.md R102 to R123): what each of them writes, and the
special results of the float operations. The idea: all but AND and OR complete with one SetReg, whose effect is said
once (`writesReg_setReg`), so that what is left of each statement is the value. -/

namespace Sys2Proof.Machine

/-! ## Special results of the float operations (R104, R114 to R117) -/

section Special
variable (F : FloatFormat) (n m : Bool) (x y : Nat)

theorem nan_operand (v : FloatVal) : ∀ f ∈ [F.add, F.sub, F.mul, F.div], f .nan v = none ∧ f v .nan = none := by
  simp only [List.forall_mem_cons, List.not_mem_nil, false_implies, implies_true, and_true]
  refine ⟨⟨rfl, ?add⟩, ⟨rfl, ?sub⟩, ⟨rfl, ?mul⟩, ⟨rfl, ?div⟩⟩ <;> cases v <;> rfl

theorem add_inf_same : F.add (.inf n) (.inf n) = some (F.withSign n F.infBits) := if_pos rfl

theorem add_inf_opposite : F.add (.inf n) (.inf !n) = none := if_neg (Bool.not_eq_not.mpr rfl)

/-- Subtracting an infinity of the other sign is adding one of the same sign. -/
theorem sub_inf_opposite : F.sub (.inf n) (.inf !n) = some (F.withSign n F.infBits) := by
  rw [FloatFormat.sub, FloatVal.negate, Bool.not_not, add_inf_same]

variable {x y}

theorem mul_inf_finite (hy : y ≠ 0) : F.mul (.inf n) (.finite m y) = some (F.withSign (n ^^ m) F.infBits) := if_neg hy

theorem mul_finite_inf (hx : x ≠ 0) : F.mul (.finite n x) (.inf m) = some (F.withSign (n ^^ m) F.infBits) := if_neg hx

theorem finite_div_zero (hx : x ≠ 0) : F.div (.finite n x) (.finite m 0) = some (F.withSign (n ^^ m) F.infBits) :=
  if_neg hx

theorem zero_div_finite (hy : y ≠ 0) : F.div (.finite n 0) (.finite m y) = some (F.withSign (n ^^ m) 0) := by
  rw [div_finite F n m 0 y hy, Nat.zero_mul, roundMag_zero]

variable (x y)

theorem zero_mul_finite : F.mul (.finite n 0) (.finite m y) = some (F.withSign (n ^^ m) 0) := by
  rw [mul_finite, Nat.zero_mul, roundMag_zero]

theorem finite_mul_zero : F.mul (.finite n x) (.finite m 0) = some (F.withSign (n ^^ m) 0) := by
  rw [mul_finite, Nat.mul_zero, roundMag_zero]

/-- Two zeros of one sign: their sum keeps it. -/
theorem add_zero_same : F.add (.finite n 0) (.finite n 0) = some (F.withSign n 0) := by
  rw [add_finite, signedMag_zero, if_pos (Int.add_zero 0), Bool.and_self]

/-- A number and its opposite, zeros included, sum to +0 (R115). -/
theorem add_opposite : F.add (.finite n x) (.finite (!n) x) = some 0 := by
  rw [add_finite, signedMag_not, if_pos (Int.add_right_neg _), Bool.and_not_self, withSign_false]

end Special

/-- Settles O33: the laws hold in every format. -/
theorem specialFloatResults : Obligations.SpecialFloatResults := by
  intro F _ v n m x y
  refine ⟨nan_operand F v, ?nans, ?sums, ?differences, ?products, ?quotients, ?zeros, ?signs, ?zeroSums⟩
  case nans => exact ⟨add_inf_opposite F n, add_inf_opposite F n, rfl, rfl, rfl, rfl⟩
  case sums => exact ⟨add_inf_same F n, rfl, rfl⟩
  case differences => exact ⟨sub_inf_opposite F n, rfl, rfl⟩
  case products => exact ⟨rfl, mul_inf_finite F n m, mul_finite_inf F n m⟩
  case quotients => exact ⟨rfl, rfl, finite_div_zero F n m⟩
  case zeros => exact ⟨zero_mul_finite F n m y, finite_mul_zero F n m x, zero_div_finite F n m⟩
  case signs =>
    exact ⟨⟨_, roundMag_le_infBits F _ _, mul_finite F n m x y⟩,
      fun hy => ⟨_, roundMag_le_infBits F _ _, div_finite F n m x y hy⟩⟩
  case zeroSums =>
    refine ⟨add_zero_same F n, add_opposite F n x, ?_, ?_⟩
    · rw [sub_finite, Bool.not_not, add_zero_same]
    · rw [sub_finite, add_opposite]

/-! ## NaN results (R104) -/

/-- A pattern whose exponent bits and top fraction bit are set is a NaN. -/
theorem unpack_or_quiet (F : FloatFormat) (hf : 0 < F.fracBits) (p : Nat) {quiet : Nat}
    (hquiet : ∀ i < F.fracBits + F.expBits, F.fracBits ≤ i + 1 → quiet.testBit i = true) :
    F.unpack (p ||| quiet) = .nan := by
  have hexp : (p ||| quiet) / 2 ^ F.fracBits % 2 ^ F.expBits = F.maxExpField := by
    refine Nat.eq_of_testBit_eq fun i => ?_
    rw [FloatFormat.maxExpField, Nat.testBit_two_pow_sub_one, Nat.testBit_mod_two_pow, Nat.testBit_div_two_pow,
      Nat.testBit_or]
    by_cases hi : i < F.expBits
    · simp [hi, hquiet (i + F.fracBits) (by omega) (by omega)]
    · simp [hi]
  have hfrac : (p ||| quiet) % 2 ^ F.fracBits ≠ 0 := by
    have htop : ((p ||| quiet) % 2 ^ F.fracBits).testBit (F.fracBits - 1) = true := by
      simp [hf, hquiet (F.fracBits - 1) (by omega) (by omega)]
    exact fun hzero => by simp [hzero] at htop
  rw [FloatFormat.unpack, if_pos hexp, if_neg hfrac]

theorem f32_asNaN32 (b : BitVec 32) : f32 (asNaN32 b) = .nan := by
  unfold asNaN32
  split
  · assumption
  · rw [f32, BitVec.toNat_or]
    exact unpack_or_quiet binary32 (by decide) b.toNat (by decide)

theorem f64_asNaN64 (b : BitVec 64) : f64 (asNaN64 b) = .nan := by
  unfold asNaN64
  split
  · assumption
  · rw [f64, BitVec.toNat_or]
    exact unpack_or_quiet binary64 (by decide) b.toNat (by decide)

theorem float32Op_eq_resultBits32 (op : BitVec 8) (f : FloatVal → FloatVal → Option Nat) (a b : BitVec 32) :
    float32Op op f a b = resultBits32 nanResult32 f op a b := by
  unfold float32Op resultBits32
  cases f (f32 a) (f32 b) <;> rfl

theorem float64Op_eq_resultBits64 (op : BitVec 8) (f : FloatVal → FloatVal → Option Nat) (a b : BitVec 64) :
    float64Op op f a b = resultBits64 nanResult64 f op a b := by
  unfold float64Op resultBits64
  cases f (f64 a) (f64 b) <;> rfl

/-! ## The float instructions -/

/-- What the binary32 instructions do (R114 to R117). -/
theorem writesReg_float32Op (s : State) (a b c : Reg) (op : BitVec 8) (f : FloatVal → FloatVal → Option Nat) :
    WritesReg s (s.setReg c ((float32Op op f (s.reg32 a) (s.reg32 b)).setWidth 64) .float).advance c
      ((resultBits32 nanResult32 f op (s.reg32 a) (s.reg32 b)).setWidth 64) .float :=
  float32Op_eq_resultBits32 op f _ _ ▸ writesReg_setReg s c _ .float

/-- What the binary64 instructions do (R118 to R121). -/
theorem writesReg_float64Op (s : State) (a b c : Reg) (op : BitVec 8) (f : FloatVal → FloatVal → Option Nat) :
    WritesReg s (s.setReg c (float64Op op f (s.reg a) (s.reg b)) .double).advance c
      (resultBits64 nanResult64 f op (s.reg a) (s.reg b)) .double :=
  float64Op_eq_resultBits64 op f _ _ ▸ writesReg_setReg s c _ .double

/-- Settles O29: the NaN chosen is the model's `nanResult32`. -/
theorem floatArithmetic : Obligations.FloatArithmetic := by
  refine ⟨nanResult32, fun _ _ _ => f32_asNaN32 _, ?_⟩
  rintro a b c s _ _ rfl rfl
  exact ⟨⟨⟨rfl, rfl⟩, _, rfl, writesReg_float32Op s a b c 0x20 binary32.add⟩,
    ⟨⟨rfl, rfl⟩, _, rfl, writesReg_float32Op s a b c 0x21 binary32.sub⟩,
    ⟨⟨rfl, rfl⟩, _, rfl, writesReg_float32Op s a b c 0x22 binary32.mul⟩,
    ⟨⟨rfl, rfl⟩, _, rfl, writesReg_float32Op s a b c 0x23 binary32.div⟩⟩

/-- Settles O30: the NaN chosen is the model's `nanResult64`. -/
theorem doubleArithmetic : Obligations.DoubleArithmetic :=
  ⟨nanResult64, fun _ _ _ => f64_asNaN64 _, fun a b c s =>
    ⟨⟨⟨rfl, rfl⟩, _, rfl, writesReg_float64Op s a b c 0x24 binary64.add⟩,
      ⟨⟨rfl, rfl⟩, _, rfl, writesReg_float64Op s a b c 0x25 binary64.sub⟩,
      ⟨⟨rfl, rfl⟩, _, rfl, writesReg_float64Op s a b c 0x26 binary64.mul⟩,
      ⟨⟨rfl, rfl⟩, _, rfl, writesReg_float64Op s a b c 0x27 binary64.div⟩⟩⟩

/-! ## The integer instructions -/

/-- Settles O26: the low 64 bits of an exact natural number are the same taken as a natural number or as an integer. -/
theorem integerAddSubMul : Obligations.IntegerAddSubMul := by
  refine ⟨⟨rfl, rfl, rfl, rfl, rfl, rfl⟩, fun a b c s =>
    ⟨⟨⟨rfl, rfl⟩, _, rfl, writesReg_setReg s c _ .signed⟩,
      ⟨⟨rfl, rfl⟩, _, rfl, writesReg_setReg s c _ .signed⟩,
      ⟨⟨rfl, rfl⟩, _, rfl, writesReg_setReg s c _ .signed⟩,
      ⟨⟨rfl, rfl⟩, _, rfl, ?add⟩,
      ⟨⟨rfl, rfl⟩, _, rfl, writesReg_setReg s c _ .raw⟩,
      ⟨⟨rfl, rfl⟩, _, rfl, ?mul⟩⟩⟩
  case add => rw [← BitVec.ofInt_natCast, Int.natCast_add]; exact writesReg_setReg s c _ .raw
  case mul => rw [← BitVec.ofInt_natCast, Int.natCast_mul]; exact writesReg_setReg s c _ .raw

/-- Truncation toward zero, by sign and magnitude. -/
theorem tdiv_eq_sign_mul_natAbs_div (a b : Int) :
    a.tdiv b = (a * b).sign * ((a.natAbs / b.natAbs : Nat) : Int) := by
  rw [← Int.sign_mul_natAbs (a.tdiv b), Int.natAbs_tdiv, Int.sign_tdiv, Int.sign_mul]
  split
  · next hlt => rw [Nat.div_eq_of_lt hlt]; simp
  · rfl

theorem execIntDivide_zero {s : State} {a b c : Reg} (h : s.reg b = 0) :
    exec (.intDivide a b c) s = .next (s.takeRuntimeError .divideByZero) := by
  have hzero : s.asSigned b = 0 := by rw [State.asSigned, h]; rfl
  exact congrArg s.settle (if_pos hzero)

theorem execUintDivide_zero {s : State} {a b c : Reg} (h : s.reg b = 0) :
    exec (.uintDivide a b c) s = .next (s.takeRuntimeError .divideByZero) := by
  have hzero : s.asUnsigned b = 0 := by rw [State.asUnsigned, h]; rfl
  exact congrArg s.settle (if_pos hzero)

theorem execIntDivide_nonzero {s : State} {a b c : Reg} (h : s.reg b ≠ 0) :
    exec (.intDivide a b c) s =
      .next (s.setReg c (BitVec.ofInt 64 ((s.asSigned a).tdiv (s.asSigned b))) .signed).advance := by
  have hne : s.asSigned b ≠ 0 := fun hzero => h (BitVec.toInt_inj.mp hzero)
  exact congrArg s.settle (if_neg hne)

theorem execUintDivide_nonzero {s : State} {a b c : Reg} (h : s.reg b ≠ 0) :
    exec (.uintDivide a b c) s =
      .next (s.setReg c (BitVec.ofNat 64 (s.asUnsigned a / s.asUnsigned b)) .raw).advance := by
  have hne : s.asUnsigned b ≠ 0 := fun hzero => h (BitVec.eq_of_toNat_eq hzero)
  exact congrArg s.settle (if_neg hne)

/-- The unsigned quotient needs no more than 64 bits, so its word is its floor. -/
theorem ofNat_div_floor {w : Nat} (x : BitVec w) {y : BitVec w} (hy : y ≠ 0) :
    (BitVec.ofNat w (x.toNat / y.toNat)).toNat * y.toNat ≤ x.toNat ∧
      x.toNat < ((BitVec.ofNat w (x.toNat / y.toNat)).toNat + 1) * y.toNat := by
  have hpos : 0 < y.toNat := Nat.pos_of_ne_zero fun hzero => hy (BitVec.eq_of_toNat_eq (by simpa using hzero))
  rw [BitVec.toNat_ofNat, Nat.mod_eq_of_lt ((Nat.div_le_self _ _).trans_lt x.isLt)]
  exact ⟨Nat.div_mul_le_self _ _, Nat.mul_comm _ _ ▸ Nat.lt_mul_div_succ _ hpos⟩

/-- Settles O27: a zero divisor is refused before anything is written; else the quotient is one SetReg. -/
theorem integerDivision : Obligations.IntegerDivision := by
  refine fun a b c s => ⟨⟨rfl, rfl⟩, ⟨rfl, rfl⟩, fun h => ⟨execIntDivide_zero h, execUintDivide_zero h⟩,
    fun h => ⟨_, execIntDivide_nonzero h, ?signed⟩,
    fun h => ⟨_, _, execUintDivide_nonzero h, writesReg_setReg s c _ .raw, ofNat_div_floor (s.reg a) h⟩⟩
  case signed => exact tdiv_eq_sign_mul_natAbs_div _ _ ▸ writesReg_setReg s c _ .signed

/-! ## AND and OR -/

/-- The frame of a write of the value alone is that of SetReg, whose tag write it leaves out (R105). -/
theorem sameBut_setVal (s : State) (c : Reg) (v : Cell64) : SameBut s (s.setVal c v).advance [c] [] :=
  have hframe := sameBut_rewriteRegister s c v TagKind.raw.code
  { hframe with registers := fun r hr => ⟨(hframe.registers r hr).1, rfl⟩ }

theorem setVal_advance_reg_same (s : State) (c : Reg) (v : Cell64) : (s.setVal c v).advance.reg c = v := by simp

/-- Settles O28: both write the value alone. -/
theorem bitwiseKeepsTag : Obligations.BitwiseKeepsTag := by
  refine fun a b c s => ⟨⟨⟨rfl, rfl⟩, _, rfl, fun i _ => ?conjunction, rfl, rfl, sameBut_setVal s c _⟩,
    ⟨⟨rfl, rfl⟩, _, rfl, fun i _ => ?disjunction, rfl, rfl, sameBut_setVal s c _⟩⟩
  case conjunction => rw [setVal_advance_reg_same, BitVec.getLsbD_and]
  case disjunction => rw [setVal_advance_reg_same, BitVec.getLsbD_or]

end Sys2Proof.Machine
end

section
/-! PROOFS. The comparison instructions (43_compare.md R124 to R140). The idea: every one of them completes with one
write of a boolean (`writesBool_writeBool`), so that what is left is the boolean; for floats it is the order of the
places of the two values, which both formats share (`FloatVal.eq_iff`, `FloatVal.less_iff`). -/

namespace Sys2Proof.Machine

/-! ## The quiet order (R126) -/

section Places
variable {x y : FloatVal} {p q : Int × Int}

theorem quietEqual_iff_of_place (hx : x.place = some p) (hy : y.place = some q) : QuietEqual x y ↔ p = q := by
  simp [QuietEqual, hx, hy, eq_comm]

theorem quietLess_iff_of_place (hx : x.place = some p) (hy : y.place = some q) :
    QuietLess x y ↔ p.1 < q.1 ∨ (p.1 = q.1 ∧ p.2 < q.2) := by
  simp [QuietLess, hx, hy]

theorem not_quietEqual_of_unplaced (h : x.place = none ∨ y.place = none) : ¬ QuietEqual x y := by
  rintro ⟨p, hx, hy⟩
  simp [hx, hy] at h

theorem not_quietLess_of_unplaced (h : x.place = none ∨ y.place = none) : ¬ QuietLess x y := by
  rintro ⟨p, q, hx, hy, -⟩
  simp [hx, hy] at h

end Places

/-! ## The comparisons of the model are those of the order -/

namespace FloatVal

theorem eq_iff (x y : FloatVal) : x.eq y = true ↔ QuietEqual x y := by
  match x, y with
  | .nan, _ => exact iff_of_false nofun (not_quietEqual_of_unplaced (.inl rfl))
  | .inf _, .nan | .finite _ _, .nan => exact iff_of_false nofun (not_quietEqual_of_unplaced (.inr rfl))
  | .inf n, .inf m => rw [quietEqual_iff_of_place rfl rfl]; revert n m; decide
  | .inf n, .finite _ _ | .finite _ _, .inf n => rw [quietEqual_iff_of_place rfl rfl]; cases n <;> simp [FloatVal.eq]
  | .finite _ _, .finite _ _ => rw [quietEqual_iff_of_place rfl rfl]; simp [FloatVal.eq]

theorem less_iff (x y : FloatVal) : x.less y = true ↔ QuietLess x y := by
  match x, y with
  | .nan, _ => exact iff_of_false nofun (not_quietLess_of_unplaced (.inl rfl))
  | .inf _, .nan | .finite _ _, .nan => exact iff_of_false nofun (not_quietLess_of_unplaced (.inr rfl))
  | .inf n, .inf m => rw [quietLess_iff_of_place rfl rfl]; revert n m; decide
  | .inf n, .finite _ _ | .finite _ _, .inf n => rw [quietLess_iff_of_place rfl rfl]; cases n <;> simp [FloatVal.less]
  | .finite _ _, .finite _ _ => rw [quietLess_iff_of_place rfl rfl]; simp [FloatVal.less]

theorem not_eq_iff (x y : FloatVal) : (!x.eq y) = true ↔ ¬ QuietEqual x y := by
  rw [Bool.not_eq_true', ← Bool.not_eq_true, eq_iff]

theorem lessEq_iff (x y : FloatVal) : x.lessEq y = true ↔ QuietLess x y ∨ QuietEqual x y := by
  rw [lessEq, Bool.or_eq_true, less_iff, eq_iff]

end FloatVal

/-! ## The statements -/

/-- Settles O35: each writes the model's comparison of the values of bits 31:0, which is that of the quiet order. -/
theorem floatComparisons : Obligations.FloatComparisons := by
  rintro a b c s _ _ rfl rfl
  exact ⟨⟨⟨rfl, rfl⟩, _, _, rfl, writesBool_writeBool s c _, FloatVal.eq_iff _ _⟩,
    ⟨⟨rfl, rfl⟩, _, _, rfl, writesBool_writeBool s c _, FloatVal.not_eq_iff _ _⟩,
    ⟨⟨rfl, rfl⟩, _, _, rfl, writesBool_writeBool s c _, FloatVal.less_iff _ _⟩,
    ⟨⟨rfl, rfl⟩, _, _, rfl, writesBool_writeBool s c _, FloatVal.lessEq_iff _ _⟩⟩

/-- Settles O36: as for binary32, on the values of all 64 bits. -/
theorem doubleComparisons : Obligations.DoubleComparisons := by
  rintro a b c s _ _ rfl rfl
  exact ⟨⟨⟨rfl, rfl⟩, _, _, rfl, writesBool_writeBool s c _, FloatVal.eq_iff _ _⟩,
    ⟨⟨rfl, rfl⟩, _, _, rfl, writesBool_writeBool s c _, FloatVal.not_eq_iff _ _⟩,
    ⟨⟨rfl, rfl⟩, _, _, rfl, writesBool_writeBool s c _, FloatVal.less_iff _ _⟩,
    ⟨⟨rfl, rfl⟩, _, _, rfl, writesBool_writeBool s c _, FloatVal.lessEq_iff _ _⟩⟩

/-- Settles O34: each writes the stated comparison itself; NOT_EQUAL writes the negation of EQUAL's boolean. -/
theorem integerComparisons : Obligations.IntegerComparisons := by
  refine fun a b c s => ⟨⟨⟨rfl, rfl⟩, _, rfl, writesBool_writeBool s c _⟩, ⟨⟨rfl, rfl⟩, _, rfl, ?notEqual⟩,
    ⟨⟨rfl, rfl⟩, _, rfl, writesBool_writeBool s c _⟩, ⟨⟨rfl, rfl⟩, _, rfl, writesBool_writeBool s c _⟩,
    ⟨⟨rfl, rfl⟩, _, rfl, writesBool_writeBool s c _⟩, ⟨⟨rfl, rfl⟩, _, rfl, writesBool_writeBool s c _⟩⟩
  case notEqual => rw [decide_not]; exact writesBool_writeBool s c _

end Sys2Proof.Machine
end

section
/-! PROOFS. The jumps (44_control.md R142 to R149). The idea: all four check a target from the state before the jump and
then set ip alone (`State.goTo`), the conditional ones with the flag cleared, so that what is left of each statement is
which target it is and whether the flag lets it be checked. -/

namespace Sys2Proof.Machine

/-! ## A jump to a checked target (R143) -/

theorem State.checkTarget_inRange {s : State} {target : Int} (h : 0 ≤ target ∧ target < (s.code.length : Int)) :
    s.checkTarget target = .ok target.toNat := if_pos h

theorem State.checkTarget_outOfRange {s : State} {target : Int} (h : ¬ (0 ≤ target ∧ target < (s.code.length : Int))) :
    s.checkTarget target = .error (.cause .jumpOutOfRange) := if_neg h

/-- The target is checked from `s`; `u` is the state that then goes there. -/
def State.goTo (s u : State) (target : Int) : StepResult :=
  s.settle do return u.jumpTo (← s.checkTarget target)

theorem State.goTo_inRange {s : State} (u : State) {target : Int}
    (h : 0 ≤ target ∧ target < (s.code.length : Int)) : s.goTo u target = .next (u.jumpTo target.toNat) :=
  State.settle_bind_ok (State.checkTarget_inRange h)

theorem State.goTo_outOfRange {s : State} (u : State) {target : Int}
    (h : ¬ (0 ≤ target ∧ target < (s.code.length : Int))) :
    s.goTo u target = .next (s.takeRuntimeError .jumpOutOfRange) :=
  State.settle_bind_cause (State.checkTarget_outOfRange h)

theorem State.jumpTo_toNat_ip (u : State) {target : Int} (h : 0 ≤ target) :
    (u.jumpTo target.toNat).ip = BitVec.ofInt 25 target := by
  rw [State.jumpTo_ip, ← BitVec.ofInt_natCast, Int.toNat_of_nonneg h]

/-- A code index is in range when it is below `CODE_SIZE`, as an integer or as a natural number (R145). -/
theorem natCast_inRange_iff {n size : Nat} : (0 ≤ (n : Int) ∧ (n : Int) < (size : Int)) ↔ n < size := by omega

/-- The relative target, with the offset read as two's complement (R142). -/
theorem State.relTarget_eq (s : State) (imm24 : BitVec 24) :
    s.relTarget imm24 = (s.ip.toNat : Int) + 1 + imm24.toInt := by
  rw [State.relTarget, offset24_eq]

/-! ## Frames of a jump -/

/-- Going to a target is inside every frame. -/
theorem SameBut.jumpTo {s t : State} {regs : List Reg} {parts : List Part} (h : SameBut s t regs parts) (n : Nat) :
    SameBut s (t.jumpTo n) regs parts := { h with }

theorem sameBut_setFlag (s : State) (b : Bool) : SameBut s (s.setFlag b) [] [.flag] :=
  { SameBut.refl s [] [.flag] with flag := fun hflag => absurd (List.mem_singleton.mpr rfl) hflag }

theorem sameBut_jumpTo (s : State) (n : Nat) : SameBut s (s.jumpTo n) [] [] := (SameBut.refl s [] []).jumpTo n

theorem sameBut_takenJump (s : State) (n : Nat) : SameBut s ((s.setFlag false).jumpTo n) [] [.flag] :=
  (sameBut_setFlag s false).jumpTo n

theorem sameBut_advance (s : State) : SameBut s s.advance [] [] := (SameBut.refl s [] []).advance

/-! ## The four jumps -/

section
variable {s : State} {imm24 : BitVec 24} {a : Reg}

theorem exec_jump : exec (.jump imm24) s = s.goTo s (s.relTarget imm24) := rfl

theorem exec_jumpAbs : exec (.jumpAbs a) s = s.goTo s (s.asUnsigned a) := rfl

theorem exec_jumpIf_taken (h : s.flag = true) :
    exec (.jumpIf imm24) s = s.goTo (s.setFlag false) (s.relTarget imm24) := congrArg s.settle (if_pos h)

theorem exec_jumpAbsIf_taken (h : s.flag = true) :
    exec (.jumpAbsIf a) s = s.goTo (s.setFlag false) (s.asUnsigned a) := congrArg s.settle (if_pos h)

theorem exec_jumpIf_untaken (h : s.flag = false) : exec (.jumpIf imm24) s = .next s.advance :=
  congrArg s.settle (if_neg (Bool.eq_false_iff.mp h))

theorem exec_jumpAbsIf_untaken (h : s.flag = false) : exec (.jumpAbsIf a) s = .next s.advance :=
  congrArg s.settle (if_neg (Bool.eq_false_iff.mp h))

end

/-! ## The statements -/

/-- Settles O38: a jump from the state itself to its relative target. -/
theorem jumpGoesToRelativeTarget : Obligations.JumpGoesToRelativeTarget := by
  intro imm24 s target htarget
  rw [exec_jump, State.relTarget_eq, ← htarget]
  exact ⟨⟨rfl, rfl⟩, State.goTo_outOfRange s,
    fun hin => ⟨_, State.goTo_inRange s hin, s.jumpTo_toNat_ip hin.1, sameBut_jumpTo s _⟩⟩

/-- Settles O39: a set flag makes it a jump from the state with the flag cleared; a clear one leaves the target alone. -/
theorem jumpIfTakesAndClears : Obligations.JumpIfTakesAndClears := by
  intro imm24 s target htarget
  have htaken (hflag : s.flag = true) : exec (.jumpIf imm24) s = s.goTo (s.setFlag false) target := by
    rw [exec_jumpIf_taken hflag, State.relTarget_eq, ← htarget]
  refine ⟨⟨rfl, rfl⟩, fun ⟨hflag, hout⟩ => (htaken hflag).trans (State.goTo_outOfRange _ hout),
    fun ⟨hflag, hin⟩ => ⟨_, (htaken hflag).trans (State.goTo_inRange _ hin), ?target, rfl, sameBut_takenJump s _⟩,
    fun hflag => ⟨_, exec_jumpIf_untaken hflag, rfl, sameBut_advance s⟩⟩
  case target => exact State.jumpTo_toNat_ip _ hin.1

/-- Settles O40: as the relative jumps, where the target is a natural number and so in range when below `CODE_SIZE`. -/
theorem absoluteJumps : Obligations.AbsoluteJumps := by
  intro a s
  have hin (h : (s.reg a).toNat < s.code.length) := natCast_inRange_iff.mpr h
  have hout (h : s.code.length ≤ (s.reg a).toNat) := natCast_inRange_iff.not.mpr h.not_gt
  refine ⟨⟨⟨rfl, rfl⟩, fun h => ?fault, fun h => ⟨_, ?jump, rfl, sameBut_jumpTo s _⟩⟩,
    ⟨rfl, rfl⟩, fun ⟨hflag, h⟩ => ?takenFault, fun ⟨hflag, h⟩ => ⟨_, ?taken, rfl, rfl, sameBut_takenJump s _⟩,
    fun hflag => ⟨_, exec_jumpAbsIf_untaken hflag, rfl, sameBut_advance s⟩⟩
  case fault => exact exec_jumpAbs.trans (State.goTo_outOfRange _ (hout h))
  case jump => exact exec_jumpAbs.trans (State.goTo_inRange _ (hin h))
  case takenFault => exact (exec_jumpAbsIf_taken hflag).trans (State.goTo_outOfRange _ (hout h))
  case taken => exact (exec_jumpAbsIf_taken hflag).trans (State.goTo_inRange _ (hin h))

end Sys2Proof.Machine
end

section
/-! PROOFS. The value stack, call and return (10_state.md R34 to R39; 45_stack_call.md R153 to R160). The idea: each of
these instructions is at most one operation on the stack, which changes the `.stack` part alone, and at most one CopyReg
or SetReg, so that a shared lemma about either gives the frame; the symmetry of call and return then follows from the
statements about its three instructions, with no look into the model. -/

namespace Sys2Proof.Machine

/-! ## The operations on the stack (10_state.md R36 to R39) -/

/-- The state after a push that finds room (10_state.md R36; `State.push_room`). -/
def State.pushed (s : State) (v : Cell64) (g : Tag) : State :=
  { s with
    stack := s.stack ++ [{ val := v, tag := slotTag g }]
    pointerSlots := if isPtrTag g then insertIndex s.stack.length s.pointerSlots else s.pointerSlots }

/-- The state after the top slot is popped, with `below` what is left (10_state.md R37; `State.pop_concat`). -/
def State.popped (s : State) (below : List Slot) : State :=
  { s with stack := below, pointerSlots := removeIndex below.length s.pointerSlots }

section
variable {s : State} {v : Cell64} {g : Tag}

theorem State.push_room (h : s.stack.length < s.cfg.stackCap) : s.push v g = .ok (s.pushed v g) := if_neg h.not_ge

theorem State.push_full (h : s.stack.length = s.cfg.stackCap) : s.push v g = .error (.cause .stackOverflow) :=
  if_pos h.ge

theorem State.pop_empty (h : s.stack = []) : s.pop = .error (.cause .stackUnderflow) := by
  rw [State.pop, h, List.getLast?_nil]

theorem State.pop_concat {below : List Slot} {slot : Slot} (h : s.stack = below ++ [slot]) :
    s.pop = .ok (slot, s.popped below) := by
  simp [State.pop, State.popped, h]

end

/-- The pointer-slot index gains the new slot exactly when its tag has bit `T_PTR`. -/
theorem State.mem_pushed_pointerSlots (s : State) (v : Cell64) (g : Tag) (k : Nat) :
    k ∈ (s.pushed v g).pointerSlots ↔ k ∈ s.pointerSlots ∨ (g.getLsbD 0 = true ∧ k = s.stack.length) := by
  unfold State.pushed
  split
  · next hptr => rw [mem_insertIndex, or_comm, and_iff_right (show g.getLsbD 0 = true from hptr)]
  · next hptr => rw [or_iff_left fun hnew => hptr hnew.1]

/-! ## The effects on the frame -/

/-- A new stack and pointer-slot index are a change of the stack alone. -/
theorem sameBut_stack (s : State) (stack : List Slot) (p : List Nat) :
    SameBut s { s with stack := stack, pointerSlots := p } [] [.stack] where
  loaded := ⟨rfl, rfl, rfl, rfl⟩
  registers _ _ := ⟨rfl, rfl⟩
  flag _ := rfl
  stack hstack := absurd (List.mem_singleton.mpr rfl) hstack
  heap _ _ := rfl
  allocator _ := ⟨rfl, rfl⟩
  out _ := rfl
  report _ := ⟨rfl, rfl, rfl, rfl, rfl⟩

theorem sameBut_pushed (s : State) (v : Cell64) (g : Tag) : SameBut s (s.pushed v g) [] [.stack] := sameBut_stack s _ _

/-- The contents of a stack slot are copied to register c, which keeps its reserved tag bits (10_state.md R27); beside
the instruction pointer, only the parts listed change otherwise. -/
structure CopiesSlot (s t : State) (c : Reg) (slot : Slot) (parts : List Part) : Prop where
  value    : t.reg c = slot.val
  kind     : (t.tag c).extractLsb' 0 5 = slot.tag.extractLsb' 0 5
  reserved : reservedBits (t.tag c) = reservedBits (s.tag c)
  frame    : SameBut s t [c] parts

/-- CopyReg of a slot, from a state `u` that differs from `s` in those parts at most. -/
theorem copiesSlot_copyReg {s u : State} {parts : List Part} (h : SameBut s u [] parts) (c : Reg) (slot : Slot) :
    CopiesSlot s (u.copyReg c slot.val slot.tag).advance c slot parts where
  value := by simp
  kind := by simp
  reserved := by simp [(h.registers c List.not_mem_nil).2]
  frame := (h.mono (List.nil_subset _) (List.Subset.refl _)).trans
    ((sameBut_rewriteRegister u c slot.val _).mono (List.Subset.refl _) (List.nil_subset _))

/-! ## Slots of the current frame and its linkage (R151, R157, R159) -/

section
variable {s : State} {a : Reg} {slot link saved : Slot}

theorem State.frameSlot_exists (h : s.stack[(s.reg s.cfg.frameReg).toNat + (s.reg a).toNat]? = some slot) :
    s.frameSlot a = .ok ((s.reg s.cfg.frameReg).toNat + (s.reg a).toNat, slot) := by
  simp only [State.frameSlot, State.frameBase, State.asUnsigned, h]

theorem State.frameSlot_missing (h : s.stack.length ≤ (s.reg s.cfg.frameReg).toNat + (s.reg a).toNat) :
    s.frameSlot a = .error (.cause .stackFrameOutOfBounds) := by
  simp only [State.frameSlot, State.frameBase, State.asUnsigned, List.getElem?_eq_none h]

theorem State.linkage_badFrame (h : s.frameBase < 2 ∨ s.stack.length < s.frameBase) :
    s.linkage = .error (.cause .badFrame) := if_pos h

theorem State.linkage_frame (hlow : 2 ≤ s.frameBase) (hhigh : s.frameBase ≤ s.stack.length)
    (hlink : s.stack[s.frameBase - 2]? = some link) (hsaved : s.stack[s.frameBase - 1]? = some saved) :
    s.linkage = .ok (s.frameBase, link.val, saved) := by
  rw [State.linkage, if_neg (not_or.mpr ⟨hlow.not_gt, hhigh.not_gt⟩), hlink, hsaved]

/-- RETURN from an existing frame is a jump to the saved index, from the state with the frame closed. -/
theorem exec_ret_frame (hlow : 2 ≤ s.frameBase) (hhigh : s.frameBase ≤ s.stack.length)
    (hlink : s.stack[s.frameBase - 2]? = some link) (hsaved : s.stack[s.frameBase - 1]? = some saved) :
    exec .ret s =
      s.goTo ((s.copyReg s.cfg.frameReg saved.val saved.tag).truncate (s.frameBase - 1)) link.val.toNat :=
  State.settle_bind_ok (State.linkage_frame hlow hhigh hlink hsaved)

end

/-- The frame register is restored from the saved slot and the stack truncated: the two writes touch different items, so
this is the copy into the truncated state. -/
theorem copiesSlot_closedFrame (s : State) (fr : Reg) (saved : Slot) (n target : Nat) :
    CopiesSlot s (((s.copyReg fr saved.val saved.tag).truncate n).jumpTo target) fr saved [.stack] :=
  have hcopy := copiesSlot_copyReg (sameBut_stack s (s.truncate n).stack (s.truncate n).pointerSlots) fr saved
  { hcopy with frame := hcopy.frame.jumpTo target }

/-! ## The index that PUSH_IP pushes (R155) -/

theorem exec_pushIp_inRange {s : State} {imm24 : BitVec 24}
    (h : 0 ≤ s.relTarget imm24 ∧ s.relTarget imm24 < (s.code.length : Int)) :
    exec (.pushIp imm24) s =
      s.settle (do return (← s.push (BitVec.ofNat 64 (s.relTarget imm24).toNat) 0).advance) :=
  State.settle_bind_ok (State.checkTarget_inRange h)

theorem exec_pushIp_outOfRange {s : State} {imm24 : BitVec 24}
    (h : ¬ (0 ≤ s.relTarget imm24 ∧ s.relTarget imm24 < (s.code.length : Int))) :
    exec (.pushIp imm24) s = .next (s.takeRuntimeError .jumpOutOfRange) :=
  State.settle_bind_cause (State.checkTarget_outOfRange h)

theorem ofNat_toNat_eq_ofInt {w : Nat} {i : Int} (h : 0 ≤ i) : BitVec.ofNat w i.toNat = BitVec.ofInt w i := by
  rw [← BitVec.ofInt_natCast, Int.toNat_of_nonneg h]

/-! ## The statements about one instruction -/

/-- Settles O41: a push of the register and its tag, and no other write. -/
theorem pushAppendsSlot : Obligations.PushAppendsSlot := fun a s =>
  ⟨⟨rfl, rfl⟩, fun hfull => State.settle_bind_cause (State.push_full hfull), fun hroom =>
    ⟨_, State.settle_bind_ok (State.push_room hroom), rfl, s.mem_pushed_pointerSlots (s.reg a) (s.tag a),
      rfl, (sameBut_pushed s _ _).advance⟩⟩

/-- Settles O42: CopyReg of the top slot into the state without it. -/
theorem popRemovesSlot : Obligations.PopRemovesSlot := by
  refine fun a s => ⟨⟨rfl, rfl⟩, fun hempty => State.settle_bind_cause (State.pop_empty hempty),
    fun below slot hstack => ?_⟩
  have hcopy : CopiesSlot s ((s.popped below).copyReg a slot.val slot.tag).advance a slot [.stack] :=
    copiesSlot_copyReg (sameBut_stack s _ _) a slot
  exact ⟨_, State.settle_bind_ok (State.pop_concat hstack), hcopy.value, hcopy.kind, hcopy.reserved, rfl,
    fun k => mem_removeIndex below.length k s.pointerSlots, rfl, hcopy.frame⟩

/-- Settles O43: a push of the checked index with tag 0, which is no pointer's. -/
theorem pushIpPushesIndex : Obligations.PushIpPushesIndex := by
  intro imm24 s target htarget
  rw [← s.relTarget_eq] at htarget
  subst htarget
  refine ⟨⟨rfl, rfl⟩, exec_pushIp_outOfRange, fun hin => ?_⟩
  rw [exec_pushIp_inRange hin, ofNat_toNat_eq_ofInt hin.1]
  exact ⟨fun hfull => State.settle_bind_cause (State.push_full hfull), fun hroom =>
    ⟨_, State.settle_bind_ok (State.push_room hroom), rfl, rfl, rfl, (sameBut_pushed s _ _).advance⟩⟩

/-- Settles O44: a push of the frame register, then SetReg of it to the size after the push. -/
theorem newStackFrameOpensFrame : Obligations.NewStackFrameOpensFrame := by
  intro s fr hfr
  subst hfr
  refine ⟨⟨rfl, rfl⟩, fun hfull => State.settle_bind_cause (State.push_full hfull), fun hroom => ?_⟩
  have hset (base : Cell64) := writesReg_setReg (s.pushed (s.reg s.cfg.frameReg) (s.tag s.cfg.frameReg))
    s.cfg.frameReg base .raw
  have hopen (base : Cell64) := (hset base).after (sameBut_pushed s _ _)
  exact ⟨_, State.settle_bind_ok (State.push_room hroom), rfl,
    s.mem_pushed_pointerSlots (s.reg s.cfg.frameReg) (s.tag s.cfg.frameReg), (hset _).value, (hopen _).1, rfl,
    (hopen _).2⟩

/-- Settles O45: past the check of the base it is a jump to the saved index, which makes the second check. -/
theorem returnClosesFrame : Obligations.ReturnClosesFrame := by
  intro s fr base hfr hbase
  subst hfr hbase
  refine ⟨⟨rfl, rfl⟩, fun hbad => State.settle_bind_cause (State.linkage_badFrame hbad),
    fun link saved hlow hhigh hlink hsaved => ?_⟩
  have hret := exec_ret_frame hlow hhigh hlink hsaved
  refine ⟨fun hout => ?fault, fun hin => ?returns⟩
  case fault => exact hret.trans (State.goTo_outOfRange _ (natCast_inRange_iff.not.mpr hout.not_gt))
  case returns =>
    have hcopy := copiesSlot_closedFrame s s.cfg.frameReg saved (s.frameBase - 1) link.val.toNat
    exact ⟨_, hret.trans (State.goTo_inRange _ (natCast_inRange_iff.mpr hin)), hcopy.value, hcopy.kind,
      hcopy.reserved, rfl, fun k => List.mem_filter.trans (and_congr_right' decide_eq_true_iff), rfl, hcopy.frame⟩

/-- Settles O46: both first find the slot at the exact sum; one is then CopyReg of it, the other WriteSlot to it. -/
theorem frameMoves : Obligations.FrameMoves := by
  intro a b s k hk
  subst hk
  refine ⟨⟨rfl, rfl⟩, ⟨rfl, rfl⟩, fun hmissing => ?fault, fun slot hslot => ?read, fun hexists => ?write⟩
  case fault =>
    have hslot := State.frameSlot_missing hmissing
    exact ⟨State.settle_bind_cause hslot, State.settle_bind_cause hslot⟩
  case read =>
    have hcopy := copiesSlot_copyReg (SameBut.refl s [] []) b slot
    exact ⟨_, State.settle_bind_ok (State.frameSlot_exists hslot), hcopy.value, hcopy.kind, hcopy.reserved, rfl,
      hcopy.frame⟩
  case write =>
    exact ⟨_, State.settle_bind_ok (State.frameSlot_exists (List.getElem?_eq_getElem hexists)), rfl,
      fun j => mem_markSlot _ j (s.tag b) s.pointerSlots, rfl, (sameBut_stack s _ _).advance⟩

/-! ## Call and return (R158) -/

/-- The two slots below the base of a frame, and the stack below them, in a stack that keeps them. -/
theorem linkage_of_take {stack below : List Slot} {link saved : Slot}
    (h : stack.take (below.length + 2) = below ++ [link] ++ [saved]) :
    below.length + 2 ≤ stack.length ∧ stack[below.length]? = some link ∧ stack[below.length + 1]? = some saved ∧
      stack.take (below.length + 1) = below ++ [link] := by
  obtain ⟨rest, rfl⟩ : ∃ rest, stack = below ++ [link] ++ [saved] ++ rest :=
    ⟨_, (h ▸ List.take_append_drop (below.length + 2) stack).symm⟩
  refine ⟨?_, ?_, ?_, ?_⟩ <;> simp [List.take_append]

/-- The index PUSH_IP pushed comes back exactly: it fits a register and the instruction pointer. -/
theorem toNat_ofInt_index {target : Int} (h0 : 0 ≤ target) (hcap : target < 2 ^ 24) :
    ((BitVec.ofInt 64 target).toNat : Int) = target ∧
      ((BitVec.ofNat 25 (BitVec.ofInt 64 target).toNat).toNat : Int) = target := by
  lift target to ℕ using h0
  rw [BitVec.ofInt_natCast, BitVec.toNat_ofNat, BitVec.toNat_ofNat]
  omega

/-- Settles O47: the three instructions by their own statements. NEW_STACK_FRAME leaves the pushed index and the saved
frame register in the two slots below the base, where RETURN finds them. -/
theorem callReturnSymmetry : Obligations.CallReturnSymmetry := by
  intro imm24 s target htarget h0 hsize hcode hlegal hroom
  have hcap : target < 2 ^ 24 := by have := hlegal.codeCap_le; omega
  obtain ⟨hindex, hip⟩ := toNat_ofInt_index h0 hcap
  obtain ⟨-, -, hpushIp⟩ := pushIpPushesIndex imm24 s target htarget
  obtain ⟨s1, hexec1, hstack1, -, -, hframe1⟩ := (hpushIp ⟨h0, hsize⟩).2 (by omega)
  obtain ⟨hcfg1, hcode1, -, -⟩ := hframe1.loaded
  have hlen1 : s1.stack.length = s.stack.length + 1 := by simp [hstack1]
  obtain ⟨-, -, hnewFrame⟩ := newStackFrameOpensFrame s1 s.cfg.frameReg (by rw [hcfg1])
  obtain ⟨s2, hexec2, hstack2, -, hbase2, -⟩ := hnewFrame (by rw [hcfg1]; omega)
  have hlen2 : s2.stack.length = s1.stack.length + 1 := by simp [hstack2]
  have hbase : (s2.reg s.cfg.frameReg).toNat = s.stack.length + 2 := by
    have := hlegal.stackCap_le
    rw [hbase2, BitVec.toNat_ofNat, Nat.mod_eq_of_lt] <;> omega
  refine ⟨s1, s2, hexec1, hexec2, hlen2, by omega, fun s3 hcfg3 hcode3 hreg3 hkept => ?_⟩
  have hlength : s2.stack.length = s.stack.length + 2 := by omega
  rw [hlength, hstack2, hstack1] at hkept
  obtain ⟨hlong, hlink, hsaved, hbelow⟩ := linkage_of_take hkept
  obtain ⟨-, -, hret⟩ := returnClosesFrame s3 s.cfg.frameReg (s.stack.length + 2)
    (by rw [hcfg3]) (by rw [hreg3, hbase])
  have hin : (BitVec.ofInt 64 target).toNat < s3.code.length := by rw [hcode3]; omega
  obtain ⟨t, hexec, hreg, -, -, hstack, -, hipt, -⟩ := (hret _ _ (by omega) hlong hlink hsaved).2 hin
  exact ⟨t, hexec, hstack.trans (hbelow.trans hstack1.symm), hreg, by rw [hipt, hip]⟩

end Sys2Proof.Machine
end

section
/-! PROOFS. Output and halt (46_halt_output.md R161 to R163). The idea: HALT frees by `freeOne`, which passes over a
`Free` that faults (log 8), while `FreeAllRestoresRoot` is about `freeBlock`, which stops at it. Under the allocator
invariant none faults, so the two end in the same tree and pool; every other item is written by one operation of HALT or
by none. -/

namespace Sys2Proof.Machine

/-! ## OUT (R162) -/

/-- An emitted record changes the output stream alone. -/
theorem sameBut_emit (s : State) (kind : OutKind) (bits : Cell64) : SameBut s (s.emit kind bits) [] [.out] :=
  { SameBut.refl s [] [.out] with out := fun hout => absurd (List.mem_singleton.mpr rfl) hout }

/-- Settles O59: the record is emitted with the kind of R161, and then only ip changes. -/
theorem outAppendsRecord : Obligations.OutAppendsRecord := fun a s =>
  ⟨⟨rfl, rfl⟩, _, s.outKind a, rfl, rfl, rfl, rfl, (sameBut_emit s _ _).advance⟩

/-! ## FreeAll under the allocator invariant (20_memory.md R65) -/

theorem freeOne_of_ok {cfg : Config} {tp tp' : Node × Nat} {leaf : Nat × Nat}
    (h : freeBlock cfg tp.1 tp.2 leaf.1 leaf.2 = .ok tp') : freeOne cfg tp leaf = tp' := by
  rw [freeOne, h]

/-- Where no `Free` of the order faults, passing over faults is freeing. -/
theorem foldl_freeOne_of_foldlM {cfg : Config} {order : List (Nat × Nat)} {tp result : Node × Nat}
    (h : order.foldlM (fun tp leaf => freeBlock cfg tp.1 tp.2 leaf.1 leaf.2) tp = .ok result) :
    order.foldl (freeOne cfg) tp = result := by
  induction order generalizing tp with
  | nil => exact Except.ok.inj h
  | cons leaf rest ih =>
    cases hfree : freeBlock cfg tp.1 tp.2 leaf.1 leaf.2 with
    | error c =>
      rw [List.foldlM_cons, hfree] at h
      exact nomatch h
    | ok tp' =>
      rw [List.foldlM_cons, hfree] at h
      rw [List.foldl_cons, freeOne_of_ok hfree]
      exact ih h

/-- `FreeAll` leaves one free leaf and every other record in the pool. -/
theorem freeAllBlocks_eq_root {cfg : Config} {tree : Node} {pool : Nat} (h : AllocatorInv cfg tree pool) :
    freeAllBlocks cfg tree pool = (.leaf cfg.slabExp cfg.slabBase false, cfg.nodeCap - 1) :=
  foldl_freeOne_of_foldlM (freeAllRestoresRoot cfg tree pool h _ (List.Perm.refl _))

/-! ## HALT (R163) -/

section
variable (s : State)

theorem afterHalt_reg (r : Reg) : s.afterHalt.reg r = 0 := by simp [State.afterHalt]

theorem afterHalt_stack : s.afterHalt.stack = [] := by simp [State.afterHalt]

theorem afterHalt_pointerSlots : s.afterHalt.pointerSlots = [] := by simp [State.afterHalt]

/-- The allocator of the state before HALT is the one freed: no operation of HALT before `FreeAll` touches it. -/
theorem afterHalt_allocator : (s.afterHalt.tree, s.afterHalt.pool) = freeAllBlocks s.cfg s.tree s.pool := rfl

/-- What HALT keeps: the slab bytes, the report of an error, the diagnostic stream and all that the host has loaded. -/
theorem afterHalt_keeps : s.afterHalt.slab = s.slab ∧
    s.afterHalt.cause = s.cause ∧ s.afterHalt.faultIp = s.faultIp ∧ s.afterHalt.faultLine = s.faultLine ∧
    s.afterHalt.diag = s.diag ∧ s.afterHalt.cfg = s.cfg ∧ s.afterHalt.code = s.code ∧
    s.afterHalt.lineTable = s.lineTable ∧ s.afterHalt.metadata = s.metadata := by
  simp [State.afterHalt]

end

/-- Settles O60: under the invariant `FreeAll` ends in the free root; the record, the flag, ip, `STATUS` and the result
are each set by one operation of HALT. -/
theorem haltClearsMachine : Obligations.HaltClearsMachine := by
  intro s rr hrr hinv
  subst hrr
  obtain ⟨htree, hpool⟩ := Prod.mk.inj ((afterHalt_allocator s).trans (freeAllBlocks_eq_root hinv))
  exact ⟨⟨rfl, rfl⟩, rfl, s.afterHalt, s.outKind s.cfg.returnReg, exec_halt s, rfl, rfl,
    fun r => ⟨afterHalt_reg s r, afterHalt_tag s r⟩, afterHalt_stack s, afterHalt_pointerSlots s, htree, hpool,
    rfl, rfl, rfl, rfl, afterHalt_keeps s⟩

end Sys2Proof.Machine
end

section
/-! PROOFS. Steps, runs and runtime errors (60_exceptions.md R164, R166, R167; 70_reset_and_hazards.md R181), and the
host's requests (10_state.md R17; 70_reset_and_hazards.md R177, R182). The idea: pseudocode that completes keeps
`STATUS`, and the causes it raises are none of the free port's, whose codes are 17 to 19; so HALT alone ends a run
without an error. -/

namespace Sys2Proof.Machine

/-! ## What one step does (R166) -/

section
variable {s : State}

theorem step_of_not_running (h : s.status ≠ .running) : step s = .next s := by
  unfold step
  split
  · next hrun => exact absurd hrun h
  all_goals rfl

theorem step_of_no_fetch (hrun : s.status = .running) (hfetch : s.fetch = none) :
    step s = .next (s.takeRuntimeError .ipOutOfRange) := by
  simp only [step, hrun, hfetch]

theorem step_of_instr {w : Word} {i : Instr} (hrun : s.status = .running) (hfetch : s.fetch = some w)
    (hw : decode w = .instr i) : step s = exec i s := by
  simp only [step, hrun, hfetch, hw]

theorem State.fetch_eq_none_iff : s.fetch = none ↔ s.code.length ≤ s.ip.toNat := List.getElem?_eq_none_iff

end

/-- Settles O7: each branch of `step` under its own condition. -/
theorem stepFetchesDecodesExecutes : Obligations.StepFetchesDecodesExecutes := fun _ =>
  ⟨step_of_not_running, fun hrun hend => step_of_no_fetch hrun (State.fetch_eq_none_iff.mpr hend),
    fun _ hrun hfetch => ⟨fun _ hw => step_of_illegal hrun hfetch hw, fun _ hw => step_of_instr hrun hfetch hw⟩⟩

/-! ## The entry of a runtime error (R164, R167) -/

theorem causeCodes : CauseCodes := by
  unfold CauseCodes Cause.Row
  decide

theorem statusCodes : StatusCodes := ⟨rfl, rfl, rfl, rfl⟩

/-- Settles O8: each item that the entry writes is read back, and the frame holds for every cause. -/
theorem runtimeErrorEntry : Obligations.RuntimeErrorEntry :=
  ⟨causeCodes, statusCodes, fun s c =>
    ⟨_, rfl, rfl, rfl, rfl, rfl, rfl, rfl, rfl, rfl, sameBut_takeRuntimeError s c⟩⟩

/-! ## How pseudocode ends -/

/-- The pseudocode completes with an answer of which `post` holds, or raises a cause that is none of the free port's
(20_memory.md R66), or stops the model. -/
def EndsWith {α : Type} (post : α → Prop) : Except Stop α → Prop
  | .ok a => post a
  | .error (.cause c) => c.code.toNat ≤ 16
  | .error (.stuck _) => True

section
variable {α β : Type} {P : α → Prop} {Q : β → Prop} {x y : Except Stop α} {f : α → Except Stop β}

theorem endsWith_cause {c : Cause} (hc : c.code.toNat ≤ 16) : EndsWith P (.error (.cause c)) := hc

/-- An operation that raises one cause alone. -/
theorem endsWith_of_raises {c : Cause} (hok : ∀ a, x = .ok a → P a) (herr : ∀ e, x = .error e → e = .cause c)
    (hc : c.code.toNat ≤ 16) : EndsWith P x :=
  match x, hok, herr with
  | .ok a, hok, _ => hok a rfl
  | .error e, _, herr => herr e rfl ▸ hc

theorem endsWith_bind (hx : EndsWith P x) (hf : ∀ a, P a → EndsWith Q (f a)) : EndsWith Q (x >>= f) :=
  match x, hx with
  | .ok a, ha => hf a ha
  | .error (.cause _), hc => hc
  | .error (.stuck _), _ => trivial

theorem endsWith_ite {c : Prop} [Decidable c] (hx : EndsWith P x) (hy : EndsWith P y) :
    EndsWith P (if c then x else y) := by
  split
  exacts [hx, hy]

/-- A check that lets the pseudocode go on or raises one cause. -/
theorem endsWith_check {c : Prop} [Decidable c] {e : Cause} (he : e.code.toNat ≤ 16) :
    EndsWith (fun _ => True) (if c then .ok () else .error (.cause e)) :=
  endsWith_ite trivial (endsWith_cause he)

end

/-- The answer is a state with this `STATUS`. -/
abbrev HasStatus (st : Status) (t : State) : Prop := t.status = st

namespace EndsWith

/-! ## The operations that only read -/

section
variable (s : State)

theorem memRead (a n : Nat) : EndsWith (fun _ => True) (s.memRead a n) :=
  endsWith_of_raises (fun _ _ => trivial) (fun _ h => (State.memRead_error h).2) (by decide)

theorem checkTarget (t : Int) : EndsWith (fun _ => True) (s.checkTarget t) :=
  endsWith_of_raises (fun _ _ => trivial) (fun _ h => (State.checkTarget_error h).2) (by decide)

theorem frameSlot (a : Reg) : EndsWith (fun _ => True) (s.frameSlot a) :=
  endsWith_of_raises (fun _ _ => trivial) (fun _ h => (State.frameSlot_error h).2) (by decide)

theorem linkage : EndsWith (fun _ => True) s.linkage :=
  endsWith_of_raises (fun _ _ => trivial) (fun _ h => (State.linkage_error h).2) (by decide)

theorem checkSpan (span : Nat) : EndsWith (fun _ => True) (checkSpan span) := endsWith_check (by decide)

theorem typeOf (tid : Nat) : EndsWith (fun _ => True) (s.typeOf tid) := by
  cases h : s.metadata[tid]? with
  | none => exact State.typeOf_unknown h ▸ endsWith_cause (by decide)
  | some ty => exact State.typeOf_known h ▸ trivial

theorem fieldOf (ty : TypeMeta) (j : Nat) : EndsWith (fun _ => True) (fieldOf ty j) := by
  cases h : ty.fields[j]? with
  | none => exact fieldOf_unknown h ▸ endsWith_cause (by decide)
  | some field => exact fieldOf_known h ▸ trivial

theorem fieldAt (a b : Reg) : EndsWith (fun _ => True) (s.fieldAt a b) :=
  endsWith_bind (P := fun _ => True) (endsWith_check (by decide)) fun _ _ =>
    endsWith_bind (typeOf s _) fun _ _ => endsWith_bind (fieldOf _ _) fun _ _ => trivial

theorem elementAt (a b : Reg) : EndsWith (fun _ => True) (s.elementAt a b) :=
  endsWith_bind (P := fun _ => True) (endsWith_check (by decide)) fun _ _ =>
    endsWith_bind (P := fun _ => True) (endsWith_check (by decide)) fun _ _ =>
    endsWith_bind (memRead s _ _) fun _ _ => endsWith_bind (memRead s _ _) fun _ _ =>
    endsWith_bind (checkSpan _) fun _ _ =>
    endsWith_bind (P := fun _ => True) (endsWith_check (by decide)) fun _ _ => trivial

end

/-! ## The operations that write data: they keep `STATUS` -/

section
variable {s : State} {st : Status}

theorem push (h : HasStatus st s) (v : Cell64) (g : Tag) : EndsWith (HasStatus st) (s.push v g) := by
  refine endsWith_of_raises (fun t hok => ?_) (fun _ herr => (State.push_error herr).2) (by decide)
  obtain ⟨_, rfl⟩ := State.push_ok hok
  exact h

theorem pop (h : HasStatus st s) : EndsWith (fun r => HasStatus st r.2) s.pop := by
  refine endsWith_of_raises (fun ⟨slot, t⟩ hok => ?_) (fun _ herr => (State.pop_error herr).2) (by decide)
  obtain ⟨_, rfl⟩ := State.pop_ok hok
  exact h

theorem memWrite (h : HasStatus st s) (a n : Nat) (v : Cell64) : EndsWith (HasStatus st) (s.memWrite a n v) := by
  refine endsWith_of_raises (fun t hok => ?_) (fun _ herr => (State.memWrite_error herr).2) (by decide)
  obtain ⟨_, rfl⟩ := State.memWrite_ok hok
  exact h

theorem alloc (h : HasStatus st s) (k : Nat) : EndsWith (fun r => HasStatus st r.2) (s.alloc k) := by
  cases hk : s.alloc k with
  | ok r =>
    obtain ⟨a, t⟩ := r
    obtain ⟨_, _, _, rfl⟩ := State.alloc_ok hk
    exact h
  | error e =>
    rcases State.alloc_error hk with ⟨_, rfl⟩ | ⟨_, rfl⟩
    exacts [endsWith_cause (by decide), trivial]

theorem conditional (h : HasStatus st s) (target : Int) : EndsWith (HasStatus st)
    (if s.flag then do return (s.setFlag false).jumpTo (← s.checkTarget target) else .ok s.advance) :=
  endsWith_ite (endsWith_bind (checkTarget s target) fun _ _ => h) h

end

end EndsWith

/-! ## How an instruction ends (R166, R167) -/

/-- `t` keeps the `STATUS` of `s`, or is the error entry from `s` with a cause that is none of the free port's. -/
def GoesOnOrRaises (s t : State) : Prop :=
  t.status = s.status ∨ ∃ c : Cause, t = s.takeRuntimeError c ∧ c.code.toNat ≤ 16

theorem goesOnOrRaises_of_next {s t u : State} (h : (.next u : StepResult) = .next t) (hu : u.status = s.status) :
    GoesOnOrRaises s t :=
  .inl (Host.Outcome.next.inj h ▸ hu)

theorem goesOnOrRaises_of_settle {s t : State} {x : Except Stop State} (h : s.settle x = .next t)
    (hx : EndsWith (HasStatus s.status) x) : GoesOnOrRaises s t := by
  rcases State.settle_eq_next h with rfl | ⟨c, rfl, rfl⟩
  · exact .inl hx
  · exact .inr ⟨c, rfl, hx⟩

/-- HALT alone, of all instructions, sets `STATUS` without an error; FreeAll's faults never leave it (20_memory.md R66). -/
theorem exec_goesOnOrRaises {i : Instr} {s t : State} (hi : i ≠ .halt) (h : exec i s = .next t) :
    GoesOnOrRaises s t := by
  cases i with
  | halt => exact absurd rfl hi
  | out | move | constLow | constLowNegative | constMidLow | constMidHigh | constHigh | intAdd | intSubtract
  | intMultiply | uintAdd | uintSubtract | uintMultiply | floatAdd | floatSubtract | floatMultiply | floatDivide
  | doubleAdd | doubleSubtract | doubleMultiply | doubleDivide | bitAnd | bitOr | equal | notEqual | intLess
  | intLessEqual | uintLess | uintLessEqual | floatEqual | floatNotEqual | floatLess | floatLessEqual | doubleEqual
  | doubleNotEqual | doubleLess | doubleLessEqual | test => exact goesOnOrRaises_of_next h rfl
  | intDivide | uintDivide => exact goesOnOrRaises_of_settle h (endsWith_ite (endsWith_cause (by decide)) rfl)
  | push a => exact goesOnOrRaises_of_settle h (endsWith_bind (.push rfl _ _) fun _ ht => ht)
  | pop a => exact goesOnOrRaises_of_settle h (endsWith_bind (.pop rfl) fun _ ht => ht)
  | moveFromStackFrame a | moveToStackFrame a =>
    exact goesOnOrRaises_of_settle h (endsWith_bind (.frameSlot s a) fun _ _ => rfl)
  | pushIp imm24 =>
    exact goesOnOrRaises_of_settle h (endsWith_bind (.checkTarget s _) fun _ _ =>
      endsWith_bind (.push rfl _ _) fun _ ht => ht)
  | newStackFrame => exact goesOnOrRaises_of_settle h (endsWith_bind (.push rfl _ _) fun _ ht => ht)
  | ret =>
    exact goesOnOrRaises_of_settle h (endsWith_bind (.linkage s) fun _ _ =>
      endsWith_bind (.checkTarget s _) fun _ _ => rfl)
  | jump | jumpAbs => exact goesOnOrRaises_of_settle h (endsWith_bind (.checkTarget s _) fun _ _ => rfl)
  | jumpIf | jumpAbsIf => exact goesOnOrRaises_of_settle h (.conditional rfl _)
  | alloc a b =>
    exact goesOnOrRaises_of_settle h (endsWith_bind (.typeOf s _) fun _ _ =>
      endsWith_bind (.alloc rfl _) fun _ ht => ht)
  | allocArray a b c =>
    exact goesOnOrRaises_of_settle h (endsWith_bind (.checkSpan _) fun _ _ =>
      endsWith_bind (.alloc rfl _) fun _ h1 => endsWith_bind (.memWrite h1 _ _ _) fun _ h2 =>
      endsWith_bind (.memWrite h2 _ _ _) fun _ ht => ht)
  | structLoad a b c =>
    exact goesOnOrRaises_of_settle h (endsWith_bind (.fieldAt s a b) fun _ _ =>
      endsWith_bind (.memRead s _ _) fun _ _ => rfl)
  | arrayLoad a b c =>
    exact goesOnOrRaises_of_settle h (endsWith_bind (.elementAt s a b) fun _ _ =>
      endsWith_bind (.memRead s _ _) fun _ _ => rfl)
  | structStore a b c =>
    exact goesOnOrRaises_of_settle h (endsWith_bind (.fieldAt s a b) fun _ _ =>
      endsWith_bind (.memWrite rfl _ _ _) fun _ ht => ht)
  | arrayStore a b c =>
    exact goesOnOrRaises_of_settle h (endsWith_bind (.elementAt s a b) fun _ _ =>
      endsWith_bind (.memWrite rfl _ _ _) fun _ ht => ht)

/-- A step of a running block is the end by HALT, or it goes on or takes an error. -/
theorem step_halts_or_goesOnOrRaises {s t : State} (hrun : s.status = .running) (h : step s = .next t) :
    ((∃ w, s.fetch = some w ∧ decode w = .instr .halt) ∧ t = s.afterHalt) ∨ GoesOnOrRaises s t := by
  cases hfetch : s.fetch with
  | none =>
    rw [step_of_no_fetch hrun hfetch] at h
    exact .inr (.inr ⟨.ipOutOfRange, (Host.Outcome.next.inj h).symm, by decide⟩)
  | some w =>
    cases hw : decode w with
    | illegal op =>
      rw [step_of_illegal hrun hfetch hw] at h
      exact .inr (.inr ⟨.illegalOpcode, (Host.Outcome.next.inj h).symm, by decide⟩)
    | instr i =>
      rw [step_of_instr hrun hfetch hw] at h
      by_cases hi : i = .halt
      · subst hi
        exact .inl ⟨⟨w, rfl, hw⟩, (Host.Outcome.next.inj ((exec_halt s).symm.trans h)).symm⟩
      · exact .inr (exec_goesOnOrRaises hi h)

theorem resultPort_eq_none {t : State} (h : t.status = .running) : t.resultPort = none := by
  rw [State.resultPort, h]

/-- Settles O9: an instruction that keeps `STATUS` leaves the block running; HALT and the error entry set it. -/
theorem runEndsOnlyByHaltOrError : Obligations.RunEndsOnlyByHaltOrError := by
  intro s t hrun h
  rcases step_halts_or_goesOnOrRaises hrun h with ⟨hhalt, rfl⟩ | hkeep | ⟨c, rfl, hc⟩
  · exact .inr (.inl ⟨rfl, rfl, hhalt, step_of_not_running nofun⟩)
  · have htrun := hkeep.trans hrun
    exact .inl ⟨htrun, resultPort_eq_none htrun⟩
  · exact .inr (.inr ⟨rfl, rfl, ⟨c, rfl, c.code_range.1, hc⟩, step_of_not_running nofun⟩)

/-! ## The host's requests (10_state.md R17; R182) -/

section
variable {s : State}

theorem hostRequest_of_running (r : HostRequest) (hrun : s.status = .running) :
    hostRequest r s = .refused .portBusy := if_pos hrun

theorem hostRequest_loadCode (h : s.status ≠ .running) (words : List Word) : hostRequest (.loadCode words) s =
    if words.length ≤ s.cfg.codeCap then .next { s with code := words } else .refused .loadTooLarge := if_neg h

theorem hostRequest_loadLineTable (h : s.status ≠ .running) (runs : List LineRun) :
    hostRequest (.loadLineTable runs) s = .next { s with lineTable := runs } := if_neg h

theorem hostRequest_loadMetadata (h : s.status ≠ .running) (types : List TypeMeta) :
    hostRequest (.loadMetadata types) s =
      if types.length ≤ 2 ^ 32 then .next { s with metadata := types } else .refused .loadTooLarge := if_neg h

end

/-- Settles O12: each request under its own condition. -/
theorem hostProtocol : Obligations.HostProtocol :=
  ⟨fun r _ hrun => hostRequest_of_running r hrun, fun _ h =>
    ⟨fun words hfit => (hostRequest_loadCode h words).trans (if_pos hfit), hostRequest_loadLineTable h,
      fun types hfit => (hostRequest_loadMetadata h types).trans (if_pos hfit), hostRequest_start h⟩⟩

/-- A start clears the registers, the flag and the stack, and gives the allocator and the report their start values
(70_reset_and_hazards.md R177). -/
theorem State.Inv.start {s : State} (h : s.Inv) : s.start.Inv :=
  { (h.clearRegs.setFlag false).truncate 0 with
    ip_fits := Nat.zero_le _
    allocator := allocatorInv_freeRoot h.cfg_legal
    report := ⟨nofun, fun _ => ⟨rfl, rfl, rfl, rfl⟩⟩ }

/-- Settles O14: a load replaces what the invariant bounds by `CODE_CAP` alone or does not speak of. -/
theorem hostRequestsKeepInv : Obligations.HostRequestsKeepInv := by
  intro r s t hinv h
  have hidle := hostRequest_not_running h
  cases r with
  | loadCode words =>
    rw [hostRequest_loadCode hidle] at h
    split at h
    · next hfit =>
      obtain rfl := Host.Outcome.next.inj h
      exact { hinv with code_fits := hfit, report := ⟨hinv.report.atError, hinv.report.elsewhere⟩ }
    · exact nomatch h
  | loadLineTable runs =>
    obtain rfl := Host.Outcome.next.inj ((hostRequest_loadLineTable hidle runs).symm.trans h)
    exact { hinv with report := ⟨hinv.report.atError, hinv.report.elsewhere⟩ }
  | loadMetadata types =>
    rw [hostRequest_loadMetadata hidle] at h
    split at h
    · obtain rfl := Host.Outcome.next.inj h
      exact { hinv with report := ⟨hinv.report.atError, hinv.report.elsewhere⟩ }
    · exact nomatch h
  | start =>
    obtain rfl := Host.Outcome.next.inj ((hostRequest_start hidle).symm.trans h)
    exact hinv.start

end Sys2Proof.Machine
end
